-- ==== Sys2Proof/Word.lean ====
section
/-! DEFINITION. The word types of SSTD: a byte (spec/00_scope.md R8) and a 64-bit symbol word (R9, spec/10_state.md R23). -/

namespace Sys2Proof

/-- A byte, 8 bits with values 0..255 (00_scope R8). -/
abbrev Byte := BitVec 8

/-- A symbol word, 64 bits (10_state R23). -/
abbrev SymWord := BitVec 64

end Sys2Proof
end

