-- ==== Sys2Proof/Config.lean ====
section
/-! DEFINITION. What an implementation of SSTD fixes (the OPEN parameters of spec/00_scope.md R7), the constants that table
gives, and the free values of the spec's "any value" results (R14 c). -/

namespace Sys2Proof

/-- The cases of the OPEN parameter HOST_BUS_BINDING that the spec tells apart (00_scope R5, R7; 20_memory R59;
93_implementation_defined O11, O12). -/
inductive Binding where
  /-- Each host action is one atomic step and IMEM, OMEM and the table are disjoint: the binding every rule is written for. -/
  | atomicDisjoint
  /-- IMEM, OMEM or the table overlap: outside the spec, which has a model refuse it (20_memory R59, O11). -/
  | overlapping
  /-- Host actions are split into smaller transfers: outside the spec, which has a model refuse it (O12). -/
  | split
  deriving DecidableEq, Repr

/-- The OPEN parameters of one SSTD instance (00_scope R7). No step changes them. -/
structure Params where
  /-- W_LEN: the width in bits of IN_LEN, OUT_SIZE, POS_IN, POS_OUT and RESULT. -/
  wLen : Nat
  /-- IN_CAP: the capacity in bytes of the input space IMEM. -/
  inCap : Nat
  /-- OUT_CAP: the capacity in bytes of the output space OMEM. -/
  outCap : Nat
  /-- HOST_BUS_BINDING: how host actions reach the block. -/
  binding : Binding
  deriving DecidableEq, Repr

/-- The largest value a register of W_LEN bits holds (00_scope R10). -/
def Params.maxLen (p : Params) : Nat := 2 ^ p.wLen - 1

/-- N_CODES: the number of table entries, codes 0..254 (00_scope R7, 10_state R24). -/
abbrev Config.nCodes : Nat := 255

/-- ESC: the escape marker code (00_scope R7). -/
abbrev Config.escapeMarker : Byte := 0xFF#8

/-- TERMINATOR: the byte forced by zero-terminated mode (00_scope R7). -/
abbrev Config.terminator : Byte := 0x00#8

/-- The free values (00_scope R14 c): the `n`-th any-value draw, as `w` bits. It has no body, so nothing can be proved of what
it is. A statement about a free value holds for every value. (notes/assumptions/9.md) -/
opaque Config.freeBits (w n : Nat) : BitVec w

end Sys2Proof
end

