-- ==== Sys2Proof/Syntax.lean ====
section
/-! DEFINITION. The instructions of SSTD: one constructor per row of spec/opcode_table.json (SYM, ESC, FIN and the 16 host
actions), and the listing lines of spec/30_encoding.md R91 and R92. -/

namespace Sys2Proof

/-- The rows of spec/opcode_table.json. SYM, ESC and FIN are the engine's (40_stream_units R101 to R104); the rest are the
host's actions (41_host_actions R131 to R146). -/
inductive Instr where
  /-- SYM: symbol unit, code 0..254 (40 R102, 30 R81). -/
  | sym (code : Fin Config.nCodes)
  /-- ESC: escape unit, its literal byte (40 R103, 30 R82). -/
  | esc (lit : Byte)
  /-- FIN: end of stream (40 R104). -/
  | fin
  /-- WR_ZT: write the zero-terminated flag (41 R131). -/
  | wrZt (v : Bool)
  /-- WR_LEN: write one symbol length; the code index has 8 bits, legal 0..254 (41 R132). -/
  | wrLen (c v : Byte)
  /-- WR_SYM: write one symbol word; the code index has 8 bits, legal 0..254 (41 R133). -/
  | wrSym (c : Byte) (w : SymWord)
  /-- LOAD_TABLE: load the whole table at once (41 R134). -/
  | loadTable (zt : Bool) (lens : Vector Byte Config.nCodes) (syms : Vector SymWord Config.nCodes)
  /-- START: begin a run (41 R135). -/
  | start (inLen outSize : Nat)
  /-- WR_IN: write one byte of the input space (41 R136). -/
  | wrIn (a : Nat) (b : Byte)
  /-- WR_OUT: write one byte of the output space (41 R137). -/
  | wrOut (a : Nat) (b : Byte)
  /-- RD_IN: read one byte of the input space (41 R138). -/
  | rdIn (a : Nat)
  /-- RD_OUT: read one byte of the output space (41 R139). -/
  | rdOut (a : Nat)
  /-- RD_ZT: read the zero-terminated flag (41 R140). -/
  | rdZt
  /-- RD_LEN: read one symbol length (41 R141). -/
  | rdLen (c : Byte)
  /-- RD_SYM: read one symbol word (41 R142). -/
  | rdSym (c : Byte)
  /-- RD_STATUS: read STATE and CAUSE (41 R143). -/
  | rdStatus
  /-- RD_CURSORS: read IN_LEN, OUT_SIZE, POS_IN and POS_OUT (41 R144). -/
  | rdCursors
  /-- RD_RESULT: read RESULT (41 R145). -/
  | rdResult
  /-- RESET: every element to its reset value (41 R146). -/
  | reset
  deriving DecidableEq, Repr

/-- Whose step an instruction is (00_scope R6). -/
inductive Agent where
  | engine
  | host
  deriving DecidableEq, Repr

/-- The agent that performs an instruction: the engine performs SYM, ESC and FIN, the host its actions (00_scope R6). -/
def Instr.agent : Instr → Agent
  | .sym _ => .engine
  | .esc _ => .engine
  | .fin => .engine
  | .wrZt _ => .host
  | .wrLen _ _ => .host
  | .wrSym _ _ => .host
  | .loadTable _ _ _ => .host
  | .start _ _ => .host
  | .wrIn _ _ => .host
  | .wrOut _ _ => .host
  | .rdIn _ => .host
  | .rdOut _ => .host
  | .rdZt => .host
  | .rdLen _ => .host
  | .rdSym _ => .host
  | .rdStatus => .host
  | .rdCursors => .host
  | .rdResult => .host
  | .reset => .host

/-- The length in bytes of an instruction's encoding: format S is 1 byte, format E is 2, FIN takes none, and the host actions
have no encoding (30_encoding R81, R82, R88; 41_host_actions preamble). -/
def Instr.unitLength : Instr → Option Nat
  | .sym _ => some 1
  | .esc _ => some 2
  | .fin => none
  | .wrZt _ => none
  | .wrLen _ _ => none
  | .wrSym _ _ => none
  | .loadTable _ _ _ => none
  | .start _ _ => none
  | .wrIn _ _ => none
  | .wrOut _ _ => none
  | .rdIn _ => none
  | .rdOut _ => none
  | .rdZt => none
  | .rdLen _ => none
  | .rdSym _ => none
  | .rdStatus => none
  | .rdCursors => none
  | .rdResult => none
  | .reset => none

/-- One turn of the interleaving (00_scope R6, 60_exceptions R165): the engine's, or a host action. -/
inductive Turn where
  | engine
  | host (action : Instr)
  deriving DecidableEq, Repr

/-- A line of a stream listing (30_encoding R91) and its pseudo-instructions (R92). -/
inductive Line where
  /-- `SYM <code>`. -/
  | sym (code : Fin Config.nCodes)
  /-- `ESC <lit>`. -/
  | esc (lit : Byte)
  /-- `.raw <b>`: one raw byte with no unit meaning. -/
  | raw (b : Byte)
  /-- `LIT <b>`, which expands to `ESC <b>`. -/
  | lit (b : Byte)
  /-- `TERM`, which expands to `SYM <t>`; the listing names `t`. -/
  | term (t : Fin Config.nCodes)
  deriving DecidableEq, Repr

end Sys2Proof
end

