-- ==== Sys2Proof/WellFormed.lean ====
section
/-! DEFINITION. What makes parameters, an instruction and a turn well-formed: the constraints on the OPEN parameters
(spec/00_scope.md R7) and the widths of START's operands (spec/41_host_actions.md R135). Every other operand's type holds
exactly the values its width allows. -/

namespace Sys2Proof

/-- The constraints on OPEN values: `W_LEN >= 4`, `IN_CAP <= 2^W_LEN - 1`, `OUT_CAP <= 2^W_LEN - 1` (00_scope R7). -/
def Params.wellFormed (p : Params) : Bool :=
  decide (4 ≤ p.wLen) && decide (p.inCap ≤ p.maxLen) && decide (p.outCap ≤ p.maxLen)

/-- An instruction is well-formed when each operand fits the width the spec gives it. START's operands are W_LEN bits wide
(41 R135); an offset has no width of its own, and the action checks it against the capacity (41 R130). -/
def Instr.wellFormed (p : Params) : Instr → Bool
  | .sym _ => true
  | .esc _ => true
  | .fin => true
  | .wrZt _ => true
  | .wrLen _ _ => true
  | .wrSym _ _ => true
  | .loadTable _ _ _ => true
  | .start inLen outSize => decide (inLen ≤ p.maxLen) && decide (outSize ≤ p.maxLen)
  | .wrIn _ _ => true
  | .wrOut _ _ => true
  | .rdIn _ => true
  | .rdOut _ => true
  | .rdZt => true
  | .rdLen _ => true
  | .rdSym _ => true
  | .rdStatus => true
  | .rdCursors => true
  | .rdResult => true
  | .reset => true

/-- A turn is well-formed when a host turn carries a well-formed host action (00_scope R6). -/
def Turn.wellFormed (p : Params) : Turn → Bool
  | .engine => true
  | .host i => decide (i.agent = .host) && i.wellFormed p

end Sys2Proof
end

