-- ==== Sys2Proof/Decode.lean ====
section
/-! DEFINITION. The decoder and the encoder of the compressed stream (spec/30_encoding.md R80 to R88), the parse of a whole
stream (R87), the opcode map of spec/opcode_table.json (R85) and the assembly of a listing (R91, R92). -/

namespace Sys2Proof

/-- Why bytes are no unit. -/
inductive DecodeError where
  /-- No byte is left: the end of the stream, where FIN is performed, which has no encoding (30 R88). -/
  | endOfStream
  /-- An escape marker with no literal byte after it (30 R86). -/
  | danglingEscape
  deriving DecidableEq, Repr

/-- Read one unit from the front of a byte sequence: byte 0 alone decides the format (30 R83, R84). Answers the unit and the
bytes after it. -/
def decode : List Byte → Except DecodeError (Instr × List Byte)
  | [] => .error .endOfStream
  | b0 :: rest =>
    if h : b0.toNat < Config.nCodes then .ok (.sym ⟨b0.toNat, h⟩, rest)
    else
      match rest with
      | [] => .error .danglingEscape
      | lit :: rest' => .ok (.esc lit, rest')

/-- The bytes of a unit: format S is the code byte, format E the escape marker and the literal (30 R81, R82). FIN and the host
actions have no encoding (30 R88, 41 preamble). -/
def encode : Instr → Option (List Byte)
  | .sym code => some [BitVec.ofNat 8 code.val]
  | .esc lit => some [Config.escapeMarker, lit]
  | .fin => none
  | .wrZt _ => none
  | .wrLen _ _ => none
  | .wrSym _ _ => none
  | .loadTable _ _ _ => none
  | .start _ _ => none
  | .wrIn _ _ => none
  | .wrOut _ _ => none
  | .rdIn _ => none
  | .rdOut _ => none
  | .rdZt => none
  | .rdLen _ => none
  | .rdSym _ => none
  | .rdStatus => none
  | .rdCursors => none
  | .rdResult => none
  | .reset => none

/-- The bytes of a sequence of units, one after the other (30 R80). -/
def encodeStream (units : List Instr) : List Byte := units.flatMap fun i => (encode i).getD []

/-- The units of a whole stream, found left to right from offset 0, each starting where the last ended; none for a stream that
ends in a dangling escape (30 R86, R87). -/
def parseStream : List Byte → Option (List Instr)
  | [] => some []
  | b0 :: rest =>
    if h : b0.toNat < Config.nCodes then (parseStream rest).map (Instr.sym ⟨b0.toNat, h⟩ :: ·)
    else
      match rest with
      | [] => none
      | lit :: rest' => (parseStream rest').map (Instr.esc lit :: ·)

/-- A row of the opcode map: the bytes `b` with `b &&& mask = value` (30 R85). -/
structure OpcodePattern where
  value : Byte
  mask : Byte
  deriving DecidableEq, Repr

/-- Does byte 0 match the row? -/
def OpcodePattern.selects (r : OpcodePattern) (b0 : Byte) : Bool := b0 &&& r.mask == r.value

/-- The eight patterns that cover SYM's code bytes, from `0xxxxxxx` to `11111110` (30 R85, opcode_table.json row SYM). -/
def symPatterns : List OpcodePattern :=
  [⟨0x00#8, 0x80#8⟩, ⟨0x80#8, 0xC0#8⟩, ⟨0xC0#8, 0xE0#8⟩, ⟨0xE0#8, 0xF0#8⟩,
   ⟨0xF0#8, 0xF8#8⟩, ⟨0xF8#8, 0xFC#8⟩, ⟨0xFC#8, 0xFE#8⟩, ⟨0xFE#8, 0xFF#8⟩]

/-- The pattern of ESC's byte 0 (opcode_table.json row ESC). -/
def escPattern : OpcodePattern := ⟨0xFF#8, 0xFF#8⟩

/-- The bytes of an instruction word of `nbits` bits, the first byte its low 8 bits; bits above `nbits` are 0 up to the longest
unit, 2 bytes. A word of no bits is FIN's: nothing is left of the stream (30 R88; notes/assumptions/21.md). -/
def wordBytes (nbits w : Nat) : List Byte :=
  if nbits = 0 then []
  else [BitVec.ofNat 8 (w % 2 ^ nbits), BitVec.ofNat 8 (w % 2 ^ nbits / 256)]

/-- What the engine takes from the bytes left in the stream: a unit, or FIN when none is left (40 R101). -/
def decodeTableWord (nbits w : Nat) : Option Instr :=
  match decode (wordBytes nbits w) with
  | .ok (i, _) => some i
  | .error .endOfStream => some .fin
  | .error .danglingEscape => none

/-- The bytes of one listing line (30 R91, R92). -/
def Line.bytes : Line → List Byte
  | .sym code => [BitVec.ofNat 8 code.val]
  | .esc b => [Config.escapeMarker, b]
  | .raw b => [b]
  | .lit b => [Config.escapeMarker, b]
  | .term t => [BitVec.ofNat 8 t.val]

/-- The unit a listing line stands for; a raw byte stands for none (30 R91, R92). -/
def Line.unit : Line → Option Instr
  | .sym code => some (.sym code)
  | .esc b => some (.esc b)
  | .raw _ => none
  | .lit b => some (.esc b)
  | .term t => some (.sym t)

/-- The bytes of a listing, line after line (30 R91). -/
def assemble (lines : List Line) : List Byte := lines.flatMap Line.bytes

end Sys2Proof
end

