-- ==== Sys2Proof/Machine/Params.lean ====
section
/-! DEFINITION. The values of the OPEN parameters (spec/00_scope.md R7) that `State.reset` is built with. Every statement about
the machine holds for every value of the parameters; only a claim about `State.reset` itself meets these.
(notes/assumptions/2.md) -/

namespace Sys2Proof

/-- W_LEN at its default, 64; the capacities at the largest value R7 allows, so that no stream or buffer the spec allows is
shut out; the binding the rules are written for. DESIGN CHOICE, unsafe (notes/assumptions/2.md). -/
def Params.initial : Params where
  wLen := 64
  inCap := 2 ^ 64 - 1
  outCap := 2 ^ 64 - 1
  binding := .atomicDisjoint

end Sys2Proof
end

