-- ==== Sys2Proof/Machine/State.lean ====
section
/-! DEFINITION. The state of one SSTD instance: every element of spec/10_state.md R20, the model's own fields beside them, the
reset values of R39, and the reasons a step stops. -/

namespace Sys2Proof.Machine

/-- The engine's status STATE (10_state R31). -/
inductive Status where
  /-- No run since reset. -/
  | idle
  /-- A run is in progress. -/
  | run
  /-- The last run completed. -/
  | done
  /-- A fault was raised. -/
  | fault
  deriving DecidableEq, Repr

/-- The names of CAUSE's codes (60_exceptions R160). -/
inductive Cause where
  | none
  | danglingEscape
  | badLength
  | unwrittenEntry
  | unwrittenInput
  | notConfigured
  | range
  | lengthOverflow
  | startWhileBusy
  | tableBusy
  | bufferBusy
  | badHostOperand
  deriving DecidableEq, Repr

/-- An address space's written bytes: (offset, byte) pairs, offsets strictly rising. An offset that is not listed is ⊥, a byte
nothing has written since reset (10_state R34, R35, R38). -/
abbrev Memory := List Host.Cell

/-- What a read action returns to the host (41_host_actions R138 to R145). -/
inductive HostValue where
  /-- RD_ZT: one bit. -/
  | zt (v : Bool)
  /-- RD_IN, RD_OUT, RD_LEN: 8 bits. -/
  | byte (v : Byte)
  /-- RD_SYM: 64 bits. -/
  | word (v : SymWord)
  /-- RD_STATUS: the pair (STATE, CAUSE). -/
  | status (state : BitVec 2) (cause : BitVec 4)
  /-- RD_CURSORS: (IN_LEN, OUT_SIZE, POS_IN, POS_OUT). -/
  | cursors (inLen outSize posIn posOut : Nat)
  /-- RD_RESULT: a length. -/
  | result (v : Nat)
  deriving DecidableEq, Repr

/-- The state of one SSTD instance. The first twelve fields are the elements of 10_state R20; `none` in a table field is ⊥
(R38). The last four are the model's own: the OPEN parameters (00_scope R7), the interleaving still to come (R6), what the
host's latest read returned, and the number of any-value draws taken (R14 c). -/
structure State where
  /-- ZT, the zero-terminated-mode flag (R21). -/
  zt : Option Bool
  /-- LEN[0..254], the symbol lengths (R22). -/
  len : Vector (Option Byte) Config.nCodes
  /-- SYM[0..254], the symbol words (R23). -/
  sym : Vector (Option SymWord) Config.nCodes
  /-- IN_LEN, the stream's length in bytes (R26). -/
  inLen : Nat
  /-- OUT_SIZE, the output buffer's capacity in bytes (R27). -/
  outSize : Nat
  /-- POS_IN, the input cursor (R28). -/
  posIn : Nat
  /-- POS_OUT, the output cursor: the logical length produced so far (R29). -/
  posOut : Nat
  /-- RESULT, the logical length of the last completed run (R30). -/
  result : Nat
  /-- STATE (R31). -/
  status : Status
  /-- CAUSE, 4 bits (R32). -/
  cause : BitVec 4
  /-- IMEM, the input address space (R34). -/
  imem : Memory
  /-- OMEM, the output address space (R35). -/
  omem : Memory
  /-- The OPEN parameters, which no step changes (notes/assumptions/1.md). -/
  params : Params
  /-- The turns still to come (notes/assumptions/5.md). -/
  turns : List Turn
  /-- What the host's latest completed read action returned (notes/assumptions/10.md). -/
  answer : Option HostValue
  /-- How many any-value results have been drawn (notes/assumptions/9.md). -/
  draws : Nat
  deriving DecidableEq, Repr

/-- Why a step answers no state although the instruction is a known one. None of these is a fault of the spec: the spec's faults
are next states whose STATE is FAULT (00_scope R13, R14). -/
inductive Fault where
  /-- NO MOVE (00_scope R14 d): the step is not enabled. Raised by `whenUnit` and `whenEnd` for an engine step when STATE is not
  RUN (40 R100), for a unit at the stream's end and for FIN before it (40 R101). Safe: nothing is claimed to happen. -/
  | noMove
  /-- The run's window of IMEM or OMEM reaches beyond the store's capacity, offsets that do not exist (20_memory R58). Raised by
  `whenUnit` and `whenEnd`. No state that meets `State.Inv` has it, since START checks the capacities (41 R135). Safe. -/
  | runOutsideStores
  deriving DecidableEq, Repr

/-- Why the model gives a step no meaning. -/
inductive Refusal where
  /-- An instruction with no meaning yet, by its mnemonic in spec/opcode_table.json. Raised by no arm of `exec`. Safe. -/
  | notModelled (mnemonic : String)
  /-- The OPEN parameters break the constraints of 00_scope R7. That this is refused is the
  model's choice (notes/assumptions/16.md). Raised by `outsideSpec`. Safe. -/
  | illegalParameters
  /-- The binding lets IMEM, OMEM and the table overlap (20_memory R59, 93 O11). Raised by `outsideSpec`. Safe. -/
  | overlappingStores
  /-- The binding splits host actions into smaller transfers (93 O12). Raised by `outsideSpec`. Safe. -/
  | splitActions
  /-- CAUSE holds one of the reserved codes 12..15, which are never written (60 R160, 93 O10). Raised by `outsideSpec`. Safe. -/
  | reservedCause
  /-- A host turn carries an instruction of the engine's, which no host performs (00_scope R6). Raised by `hostStep`. Safe. -/
  | notAHostAction
  deriving DecidableEq, Repr

/-- Every element of R20 at its reset value (10_state R39, 70 R190), for given OPEN parameters. -/
def State.powerOn (p : Params) : State where
  zt := none
  len := Vector.replicate Config.nCodes none
  sym := Vector.replicate Config.nCodes none
  inLen := 0
  outSize := 0
  posIn := 0
  posOut := 0
  result := 0
  status := .idle
  cause := 0#4
  imem := []
  omem := []
  params := p
  turns := []
  answer := none
  draws := 0

/-- The machine right after reset (10_state R39, 70 R190). -/
def State.reset : State := State.powerOn Params.initial

end Sys2Proof.Machine
end

