-- ==== Sys2Proof/Machine/Flags.lean ====
section
/-! DEFINITION. The encodings of the status registers STATE and CAUSE (spec/10_state.md R31, R32, spec/60_exceptions.md R160) and
what the host derives in place of a truncation flag (spec/41_host_actions.md R147). The block has no condition flags
(spec/10_state.md R33). -/

namespace Sys2Proof.Machine

/-- STATE's 2-bit encoding (10 R31). -/
def Status.code : Status → BitVec 2
  | .idle => 0#2
  | .run => 1#2
  | .done => 2#2
  | .fault => 3#2

/-- CAUSE's 4-bit encoding (60 R160). -/
def Cause.code : Cause → BitVec 4
  | .none => 0#4
  | .danglingEscape => 1#4
  | .badLength => 2#4
  | .unwrittenEntry => 3#4
  | .unwrittenInput => 4#4
  | .notConfigured => 5#4
  | .range => 6#4
  | .lengthOverflow => 7#4
  | .startWhileBusy => 8#4
  | .tableBusy => 9#4
  | .bufferBusy => 10#4
  | .badHostOperand => 11#4

/-- The first of CAUSE's reserved codes, 12 (60 R160). -/
def firstReservedCause : Nat := 12

/-- Truncation: the true length is larger than the buffer (41 R147, 90_conflicts C2). -/
def State.truncated (s : State) : Bool := decide (s.outSize < s.result)

/-- The buffer is exactly filled (41 R147). -/
def State.exactlyFilled (s : State) : Bool := decide (s.result = s.outSize)

end Sys2Proof.Machine
end

