-- ==== Sys2Proof/Machine/Operands.lean ====
section
/-! DEFINITION. The forms in which values are taken apart and put together: the bytes of a symbol word (spec/00_scope.md R9,
spec/20_memory.md R50, R53), a table entry by its code (spec/10_state.md R22 to R24), the engine's literal operand
(spec/40_stream_units.md R103) and the any-value answers (spec/00_scope.md R14 c). -/

namespace Sys2Proof.Machine

/-- `byte(w, j) = w[8*j+7 : 8*j]`; byte 0 is the symbol's first byte (00 R9, 20 R50). -/
def byteOf (w : SymWord) (j : Nat) : Byte := w.extractLsb' (8 * j) 8

/-- The first `n` bytes of a symbol word in the symbol's own order (20 R50, R52). -/
def symbolBytes (w : SymWord) (n : Nat) : List Byte := (List.range n).map (byteOf w)

/-- The 8 bytes of a symbol word as a byte-addressed bus moves them, offset 0 (the lowest address) first (20 R53). -/
def busBytes (w : SymWord) : Vector Byte 8 :=
  #v[byteOf w 0, byteOf w 1, byteOf w 2, byteOf w 3, byteOf w 4, byteOf w 5, byteOf w 6, byteOf w 7]

/-- The symbol word a byte-addressed bus transfer of 8 bytes carries: the byte at offset `j` is `byte(w, j)` (20 R53). -/
def wordOfBusBytes (bs : Vector Byte 8) : SymWord :=
  bs[7] ++ bs[6] ++ bs[5] ++ bs[4] ++ bs[3] ++ bs[2] ++ bs[1] ++ bs[0]

/-- Is `c` the code of a table entry, 0..254? There is no entry 255 (10 R24). -/
def isTableCode (c : Byte) : Bool := decide (c.toNat < Config.nCodes)

/-- The table entry of code `c`; ⊥ where nothing has written it, and where there is no such entry (10 R22 to R24). -/
def entryAt {α : Type} (file : Vector (Option α) Config.nCodes) (c : Byte) : Option α := (file[c.toNat]?).join

/-- The table file with the entry of code `c` written; unchanged where there is no such entry. -/
def withEntry {α : Type} (file : Vector (Option α) Config.nCodes) (c : Byte) (v : α) : Vector (Option α) Config.nCodes :=
  file.setIfInBounds c.toNat (some v)

/-- A whole table file, every entry written (41 R134). -/
def fullFile {α : Type} (vs : Vector α Config.nCodes) : Vector (Option α) Config.nCodes :=
  ⟨(vs.toList.map some).toArray, by simp⟩

/-- An any-value answer of one bit (41 R140). -/
def anyZt (n : Nat) : HostValue := .zt (Config.freeBits 1 n == 1#1)

/-- An any-value answer of one byte (41 R138, R139, R141). -/
def anyByte (n : Nat) : HostValue := .byte (Config.freeBits 8 n)

/-- An any-value answer of one symbol word (41 R142). -/
def anyWord (n : Nat) : HostValue := .word (Config.freeBits 64 n)

/-- An any-value answer of W_LEN bits (41 R145). -/
def anyResult (p : Params) (n : Nat) : HostValue := .result (Config.freeBits p.wLen n).toNat

end Sys2Proof.Machine
end

