-- ==== Sys2Proof/Machine/Ops.lean ====
section
/-! DEFINITION. The named operations over memory, registers and the two agents: reading and writing a byte
(spec/00_scope.md R12), raising a fault (R13, spec/60_exceptions.md R161), the enabling of the engine's steps
(spec/40_stream_units.md R100, R101), and the checks common to every host action (spec/41_host_actions.md R130). -/

namespace Sys2Proof.Machine

/-- What one step answers. -/
abbrev Answer := Host.Outcome State Fault Refusal

/-! ### Memory -/

/-- The canonical form: offsets strictly rising. -/
abbrev Memory.wf (m : Memory) : Prop := List.Pairwise (fun x y => x.1 < y.1) m

/-- Every listed offset lies below the capacity (10 R34, R35). -/
abbrev Memory.below (cap : Nat) (m : Memory) : Prop := ∀ x ∈ m, x.1 < cap

/-- `MemRead(S, a, 1)`: the byte at offset `a`, or ⊥ (00 R12). -/
def Memory.read : Memory → Nat → Option Byte
  | [], _ => none
  | (x, v) :: m, a => if x = a then some v else Memory.read m a

/-- `MemWrite(S, a, 1, b)`: byte `b` at offset `a` (00 R12). -/
def Memory.write : Memory → Nat → Byte → Memory
  | [], a, b => [(a, b)]
  | (x, v) :: m, a, b =>
    if a < x then (a, b) :: (x, v) :: m
    else if a = x then (a, b) :: m
    else (x, v) :: Memory.write m a b

/-- Write bytes from offset `a` upwards, discarding each byte at or above `size` (40 R102, R103; 20 R52). -/
def Memory.emit (size : Nat) : Memory → Nat → List Byte → Memory
  | m, _, [] => m
  | m, a, b :: bs => Memory.emit size (if a < size then Memory.write m a b else m) (a + 1) bs

/-! ### Updates of the state -/

/-- A fault's state: STATE and CAUSE change, and nothing else (00 R13, 60 R161). -/
def State.faulted (c : Cause) (s : State) : State := { s with status := .fault, cause := c.code }

/-- ZT written. -/
def State.setZt (v : Bool) (s : State) : State := { s with zt := some v }

/-- LEN[c] written. -/
def State.setLen (c v : Byte) (s : State) : State := { s with len := withEntry s.len c v }

/-- SYM[c] written. -/
def State.setSym (c : Byte) (w : SymWord) (s : State) : State := { s with sym := withEntry s.sym c w }

/-- The whole table written (41 R134). -/
def State.setTable (zt : Bool) (lens : Vector Byte Config.nCodes) (syms : Vector SymWord Config.nCodes) (s : State) : State :=
  { s with zt := some zt, len := fullFile lens, sym := fullFile syms }

/-- IMEM[a] written. -/
def State.setIn (a : Nat) (b : Byte) (s : State) : State := { s with imem := Memory.write s.imem a b }

/-- OMEM[a] written. -/
def State.setOut (a : Nat) (b : Byte) (s : State) : State := { s with omem := Memory.write s.omem a b }

/-- A run begun (41 R135). -/
def State.begun (inLen outSize : Nat) (s : State) : State :=
  { s with inLen := inLen, outSize := outSize, posIn := 0, posOut := 0, status := .run }

/-- A unit's effect: its bytes written from POS_OUT, clamped at OUT_SIZE, and both cursors advanced, POS_OUT by the full
length (40 R102, R103). -/
def State.emitted (bytes : List Byte) (consumed : Nat) (s : State) : State :=
  { s with
    omem := Memory.emit s.outSize s.omem s.posOut bytes
    posOut := s.posOut + bytes.length
    posIn := s.posIn + consumed }

/-- The run's end: RESULT takes the logical length and STATE becomes DONE (40 R104). -/
def State.finished (s : State) : State := { s with result := s.posOut, status := .done }

/-- The turns still to come. -/
def State.withTurns (turns : List Turn) (s : State) : State := { s with turns := turns }

/-- One any-value result drawn (00 R14 c). -/
def State.drawn (s : State) : State := { s with draws := s.draws + 1 }

/-- A read action's return: the value, or any value where there is none, which takes a draw (00 R14 c). -/
def State.answered (v : Option HostValue) (any : Nat → HostValue) (s : State) : State :=
  match v with
  | some x => { s with answer := some x }
  | none => { s with answer := some (any s.draws), draws := s.draws + 1 }

/-- Every element of R20 at its reset value; the parameters, the turns and what the host holds are no elements of it
(70 R190, notes/assumptions/18.md). -/
def State.restored (s : State) : State :=
  { State.powerOn s.params with turns := s.turns, answer := s.answer, draws := s.draws }

/-! ### Taking a fault -/

/-- `raise Fault(c)`: the step ends in the fault's state, with none of its own writes (00 R13, 60 R161). A fault goes to no
handler and there is no return from one: RESET alone leaves FAULT (60 R161, R162, R167). -/
def raise (c : Cause) (s : State) : Answer := .next (s.faulted c)

/-! ### The engine -/

/-- The run's windows of IMEM and OMEM lie inside the stores (20 R58). -/
abbrev State.windowsFit (s : State) : Prop := s.inLen ≤ s.params.inCap ∧ s.outSize ≤ s.params.outCap

/-- A unit's step is enabled when STATE = RUN and the stream has not ended (40 R100, R101). -/
def whenUnit (s : State) (o : Answer) : Answer :=
  if s.status ≠ .run ∨ s.posIn = s.inLen then .fault .noMove
  else if ¬ s.windowsFit then .fault .runOutsideStores
  else o

/-- FIN's step is enabled when STATE = RUN and the stream has ended (40 R100, R101). -/
def whenEnd (s : State) (o : Answer) : Answer :=
  if s.status ≠ .run ∨ s.posIn ≠ s.inLen then .fault .noMove
  else if ¬ s.windowsFit then .fault .runOutsideStores
  else o

/-- The literal byte after the escape marker at POS_IN; none when the marker is the stream's last byte or the byte is ⊥
(40 R103). -/
def literalAt (s : State) : Option Byte :=
  if s.posIn + 1 = s.inLen then none else Memory.read s.imem (s.posIn + 1)

/-- The fault of an escape marker that has no literal: DANGLING_ESCAPE at the stream's last byte, else UNWRITTEN_INPUT
(40 R103, 60 R163). -/
def literalLack (s : State) : Cause := if s.posIn + 1 = s.inLen then .danglingEscape else .unwrittenInput

/-- Is the terminator forced at the end of the run (40 R104, 90_conflicts C1, C2)? `zt` is the flag as read. -/
def terminatorForced (zt : Bool) (s : State) : Bool :=
  decide (0 < s.outSize) && decide (s.outSize ≤ s.posOut) && zt

/-- ZT as the engine reads it: START lets no run begin while it is ⊥ (40 R104), so the free value in its place is met in no
state that a run reaches (notes/assumptions/13.md). -/
def ztRead (s : State) : Bool :=
  match s.zt with
  | some v => v
  | none => Config.freeBits 1 s.draws == 1#1

/-- A read of ZT takes a draw where ZT is ⊥. -/
def State.afterZtRead (s : State) : State :=
  match s.zt with
  | some _ => s
  | none => s.drawn

/-! ### The host -/

/-- A write action's checks, in the order of 41 R130 and 60 R164: no effect in FAULT, then the operand, then the run in
progress. `t` is the state after the write. -/
def hostWrite (operandOk : Bool) (busy : Cause) (s t : State) : Answer :=
  if s.status = .fault then .next s
  else if operandOk = false then raise .badHostOperand s
  else if s.status = .run then raise busy s
  else .next t

/-- A read action's checks (41 R130, 60 R164): an operand out of range faults, or returns any value in FAULT; else the value is
returned, any value where there is none. -/
def hostRead (operandOk : Bool) (v : Option HostValue) (any : Nat → HostValue) (s : State) : Answer :=
  if operandOk then .next (s.answered v any)
  else if s.status = .fault then .next (s.answered none any)
  else raise .badHostOperand s

/-! ### What lies outside the spec -/

/-- What no step is given a meaning for: a binding whose stores overlap (20 R59, 93 O11) or that splits actions (93 O12) and a reserved
code in CAUSE (60 R160, 93 O10), which the spec has a model refuse; and parameters that break the constraints of 00 R7, which is the
model's choice, as is the order (notes/assumptions/15.md, notes/assumptions/16.md). -/
def outsideSpec (s : State) : Option Refusal :=
  if s.params.wellFormed = false then some .illegalParameters
  else if s.params.binding = .overlapping then some .overlappingStores
  else if s.params.binding = .split then some .splitActions
  else if firstReservedCause ≤ s.cause.toNat then some .reservedCause
  else none

end Sys2Proof.Machine
end

