-- ==== Sys2Proof/Machine/Buffers.lean ====
section
/-! DEFINITION. The buffer actions: START, WR_IN and WR_OUT (spec/41_host_actions.md R135 to R137). -/

namespace Sys2Proof.Machine

/-- START (41 R135): no effect in FAULT; then START_WHILE_BUSY, NOT_CONFIGURED, RANGE and LENGTH_OVERFLOW in that order; else the
run begins. RESULT and OMEM keep their values. -/
def execStart (inLen outSize : Nat) (s : State) : Answer :=
  if s.status = .fault then .next s
  else if s.status = .run then raise .startWhileBusy s
  else if s.zt = none then raise .notConfigured s
  else if s.params.inCap < inLen ∨ s.params.outCap < outSize then raise .range s
  else if s.params.maxLen < 8 * inLen then raise .lengthOverflow s
  else .next (s.begun inLen outSize)

/-- WR_IN (41 R136). -/
def execWrIn (a : Nat) (b : Byte) (s : State) : Answer :=
  hostWrite (decide (a < s.params.inCap)) .bufferBusy s (s.setIn a b)

/-- WR_OUT (41 R137). -/
def execWrOut (a : Nat) (b : Byte) (s : State) : Answer :=
  hostWrite (decide (a < s.params.outCap)) .bufferBusy s (s.setOut a b)

end Sys2Proof.Machine
end

