-- ==== Sys2Proof/Machine/Control.lean ====
section
/-! DEFINITION. RESET (spec/41_host_actions.md R146, spec/70_reset_and_hazards.md R190, R191). -/

namespace Sys2Proof.Machine

/-- RESET (41 R146): works in every state, and is the only way out of FAULT; during a run it abandons the run. -/
def execReset (s : State) : Answer := .next s.restored

end Sys2Proof.Machine
end

