-- ==== Sys2Proof/Machine/Engine.lean ====
section
/-! DEFINITION. The engine's instructions: SYM, ESC and FIN (spec/40_stream_units.md R102 to R104). -/

namespace Sys2Proof.Machine

/-- SYM (40 R102): a ⊥ entry faults UNWRITTEN_ENTRY and a length outside 1..8 faults BAD_LENGTH, both before any write; else the
symbol's first LEN[code] bytes go out, clamped at OUT_SIZE, and the cursors advance by LEN[code] and 1. -/
def execSym (code : Fin Config.nCodes) (s : State) : Answer :=
  whenUnit s <|
    match s.len[code.val], s.sym[code.val] with
    | some n, some w =>
      if n.toNat < 1 ∨ 8 < n.toNat then raise .badLength s
      else .next (s.emitted (symbolBytes w n.toNat) 1)
    | _, _ => raise .unwrittenEntry s

/-- ESC (40 R103): an escape marker that has no literal faults DANGLING_ESCAPE or UNWRITTEN_INPUT; else the literal goes out,
clamped at OUT_SIZE, and the cursors advance by 1 and 2. (notes/assumptions/11.md) -/
def execEsc (lit : Byte) (s : State) : Answer :=
  whenUnit s <|
    match literalAt s with
    | none => raise (literalLack s) s
    | some _ => .next (s.emitted [lit] 2)

/-- FIN (40 R104): with ZT = 1, POS_OUT >= OUT_SIZE and OUT_SIZE > 0 the last writable byte becomes the terminator; RESULT takes
the logical length and STATE becomes DONE. -/
def execFin (s : State) : Answer :=
  whenEnd s <|
    if terminatorForced (ztRead s) s then
      .next ((s.setOut (s.outSize - 1) Config.terminator).finished.afterZtRead)
    else .next s.finished.afterZtRead

end Sys2Proof.Machine
end

