-- ==== Sys2Proof/Machine/Reads.lean ====
section
/-! DEFINITION. The read actions: RD_IN, RD_OUT, RD_ZT, RD_LEN, RD_SYM, RD_STATUS, RD_CURSORS and RD_RESULT
(spec/41_host_actions.md R138 to R145). -/

namespace Sys2Proof.Machine

/-- RD_IN (41 R138): legal during a run; any value for a ⊥ byte. -/
def execRdIn (a : Nat) (s : State) : Answer :=
  hostRead (decide (a < s.params.inCap)) ((Memory.read s.imem a).map .byte) anyByte s

/-- RD_OUT (41 R139): any value during a run and for a ⊥ byte. The operand is checked first (R130, notes/assumptions/17.md). -/
def execRdOut (a : Nat) (s : State) : Answer :=
  hostRead (decide (a < s.params.outCap))
    (if s.status = .run then none else (Memory.read s.omem a).map .byte) anyByte s

/-- RD_ZT (41 R140): any value while ZT is ⊥. -/
def execRdZt (s : State) : Answer := hostRead true (s.zt.map .zt) anyZt s

/-- RD_LEN (41 R141): legal during a run; any value for a ⊥ entry. -/
def execRdLen (c : Byte) (s : State) : Answer := hostRead (isTableCode c) ((entryAt s.len c).map .byte) anyByte s

/-- RD_SYM (41 R142): legal during a run; any value for a ⊥ entry. -/
def execRdSym (c : Byte) (s : State) : Answer := hostRead (isTableCode c) ((entryAt s.sym c).map .word) anyWord s

/-- RD_STATUS (41 R143): the pair (STATE, CAUSE), in every state. -/
def execRdStatus (s : State) : Answer :=
  hostRead true (some (.status s.status.code s.cause)) anyByte s

/-- RD_CURSORS (41 R144): the four registers' current values, in every state. -/
def execRdCursors (s : State) : Answer :=
  hostRead true (some (.cursors s.inLen s.outSize s.posIn s.posOut)) anyByte s

/-- RD_RESULT (41 R145): RESULT in DONE, any value in every other state. -/
def execRdResult (s : State) : Answer :=
  hostRead true (if s.status = .done then some (.result s.result) else none) (anyResult s.params) s

end Sys2Proof.Machine
end

