-- ==== Sys2Proof/Machine/Table.lean ====
section
/-! DEFINITION. The table actions: WR_ZT, WR_LEN, WR_SYM and LOAD_TABLE (spec/41_host_actions.md R131 to R134). -/

namespace Sys2Proof.Machine

/-- WR_ZT (41 R131). -/
def execWrZt (v : Bool) (s : State) : Answer := hostWrite true .tableBusy s (s.setZt v)

/-- WR_LEN (41 R132): any 8-bit value is stored; a value outside 1..8 faults only when a SYM uses it. -/
def execWrLen (c v : Byte) (s : State) : Answer := hostWrite (isTableCode c) .tableBusy s (s.setLen c v)

/-- WR_SYM (41 R133): the padding bytes are stored as given. -/
def execWrSym (c : Byte) (w : SymWord) (s : State) : Answer := hostWrite (isTableCode c) .tableBusy s (s.setSym c w)

/-- LOAD_TABLE (41 R134): every entry and the flag, as one atomic step. -/
def execLoadTable (zt : Bool) (lens : Vector Byte Config.nCodes) (syms : Vector SymWord Config.nCodes) (s : State) : Answer :=
  hostWrite true .tableBusy s (s.setTable zt lens syms)

end Sys2Proof.Machine
end

