-- ==== Sys2Proof/Machine/Dispatch.lean ====
section
/-! DEFINITION. One arm per row of spec/opcode_table.json, each a direct call of that instruction's meaning. -/

namespace Sys2Proof.Machine

def exec (i : Instr) (s : State) : Host.Outcome State Fault Refusal :=
  match i with
  | .sym code => Sys2Proof.Machine.execSym code s
  | .esc lit => Sys2Proof.Machine.execEsc lit s
  | .fin => Sys2Proof.Machine.execFin s
  | .wrZt v => Sys2Proof.Machine.execWrZt v s
  | .wrLen c v => Sys2Proof.Machine.execWrLen c v s
  | .wrSym c w => Sys2Proof.Machine.execWrSym c w s
  | .loadTable zt lens syms => Sys2Proof.Machine.execLoadTable zt lens syms s
  | .start inLen outSize => Sys2Proof.Machine.execStart inLen outSize s
  | .wrIn a b => Sys2Proof.Machine.execWrIn a b s
  | .wrOut a b => Sys2Proof.Machine.execWrOut a b s
  | .rdIn a => Sys2Proof.Machine.execRdIn a s
  | .rdOut a => Sys2Proof.Machine.execRdOut a s
  | .rdZt => Sys2Proof.Machine.execRdZt s
  | .rdLen c => Sys2Proof.Machine.execRdLen c s
  | .rdSym c => Sys2Proof.Machine.execRdSym c s
  | .rdStatus => Sys2Proof.Machine.execRdStatus s
  | .rdCursors => Sys2Proof.Machine.execRdCursors s
  | .rdResult => Sys2Proof.Machine.execRdResult s
  | .reset => Sys2Proof.Machine.execReset s

end Sys2Proof.Machine
end

