-- ==== Sys2Proof/Machine/Schedule.lean ====
section
/-! DEFINITION. The engine's dispatch (spec/40_stream_units.md R101), the host's turn (spec/41_host_actions.md R130), the choice
of who moves (spec/00_scope.md R6, spec/60_exceptions.md R165) and the placing of one instruction word for the next step. -/

namespace Sys2Proof.Machine

/-- What the engine takes at POS_IN. -/
inductive Fetched where
  /-- This unit, or FIN. -/
  | unit (i : Instr)
  /-- No unit can be taken: the fetch raises this fault. -/
  | raises (c : Cause)
  deriving DecidableEq, Repr

/-- The bytes the engine sees of the unit at POS_IN, given its code byte: that byte and, where there is one, the literal. -/
def unitBytes (s : State) (b0 : Byte) : List Byte := b0 :: (literalAt s).toList

/-- The dispatch of one engine step (40 R101): FIN at the stream's end, UNWRITTEN_INPUT for a ⊥ code byte, else the unit the
decoder reads, or the fault of an escape marker that has no literal (R103). -/
def fetch (s : State) : Fetched :=
  if s.posIn = s.inLen then .unit .fin
  else
    match Memory.read s.imem s.posIn with
    | none => .raises .unwrittenInput
    | some b0 =>
      match decode (unitBytes s b0) with
      | .ok (i, _) => .unit i
      | .error _ => .raises (literalLack s)

/-- One engine step (40 R101): the code byte is read in the same step that executes its unit. -/
def engineStep (s : State) : Answer :=
  match fetch s with
  | .unit i => exec i s
  | .raises c => whenUnit s (raise c s)

/-- One host action (41 R130). An engine's instruction is no host action (00 R6). -/
def hostStep (i : Instr) (s : State) : Answer :=
  if i.agent = .host then exec i s else .refused .notAHostAction

/-- One step of the interleaving (00 R6, R11; 60 R165): the next turn says who moves; when no turn is left the host is silent and
the engine moves (notes/assumptions/5.md). -/
def scheduledStep (s : State) : Answer :=
  match s.turns with
  | [] => engineStep s
  | .engine :: rest => engineStep (s.withTurns rest)
  | .host i :: rest => hostStep i (s.withTurns rest)

/-- One step of the machine; `outsideSpec` is looked at first, before the turn (notes/assumptions/16.md). -/
def machineStep (s : State) : Answer :=
  match outsideSpec s with
  | some r => .refused r
  | none => scheduledStep s

/-- Bytes written one after the other. -/
def Memory.place : Memory → Nat → List Byte → Memory
  | m, _, [] => m
  | m, a, b :: bs => Memory.place (Memory.write m a b) (a + 1) bs

/-- The state in which the engine's next step takes exactly the instruction of these bytes: they stand in IMEM from POS_IN to
the stream's end, a run is in progress, and the engine has the turn (notes/assumptions/7.md). -/
def placeWord (s : State) (nbits w : Nat) : State :=
  { s with
    imem := Memory.place s.imem s.posIn (wordBytes nbits w)
    inLen := s.posIn + (wordBytes nbits w).length
    status := .run
    cause := Cause.none.code
    turns := [] }

end Sys2Proof.Machine
end

