-- ==== Sys2Proof/Machine/Step.lean ====
section
/-! DEFINITION. One step of the machine, and the placing of one instruction word where the next step takes it. -/

namespace Sys2Proof.Machine

/-- One atomic step of the agent whose turn it is (spec/00_scope.md R6, R11, R14). -/
def step (s : State) : Host.Outcome State Fault Refusal := machineStep s

/-- `s` with the instruction word of `nbits` bits standing where the next step fetches it (notes/assumptions/7.md). -/
def State.withFetchWord (s : State) (nbits w : Nat) : State := placeWord s nbits w

end Sys2Proof.Machine
end

