-- ==== Sys2Proof/Safety.lean ====
section
/-! DEFINITION. What counts as a legal state (spec/10_state.md R40), as the end of a run (spec/70_reset_and_hazards.md R199), as a
well-formed run and its expansion (spec/40_stream_units.md section 4), and the premise on zero-terminated tables
(spec/10_state.md R25): the terms in which claims are made. -/

namespace Sys2Proof.Machine

/-- The invariants of every state reachable from reset: 10_state R40 (a) to (f), and beside them the constraints of 00_scope R7, the
codes of CAUSE that exist (60 R160), the registers' widths (00 R10), the flag written in RUN and DONE (40 R104, 41 R135) and the canonical
form of both memories within their capacities (10 R34, R35). (e) is kept in every state, not only in RUN and DONE. -/
structure State.Inv (s : State) : Prop where
  params_legal : s.params.wellFormed = true
  posIn_le : s.posIn ≤ s.inLen
  inLen_le : s.inLen ≤ s.params.inCap
  outSize_le : s.outSize ≤ s.params.outCap
  posOut_le : s.posOut ≤ 8 * s.posIn
  length_fits : 8 * s.inLen ≤ s.params.maxLen
  cause_zero_iff : s.cause = Cause.none.code ↔ s.status ≠ .fault
  cause_legal : s.cause.toNat < firstReservedCause
  result_fits : s.result ≤ s.params.maxLen
  zt_written : s.status = .run ∨ s.status = .done → s.zt ≠ none
  imem_wf : Memory.wf s.imem
  omem_wf : Memory.wf s.omem
  imem_below : Memory.below s.params.inCap s.imem
  omem_below : Memory.below s.params.outCap s.omem

/-- A unit's step is enabled: STATE = RUN, the stream has not ended, and the run's windows lie in the stores (40 R100, R101). -/
structure State.UnitReady (s : State) : Prop where
  running : s.status = .run
  not_ended : s.posIn ≠ s.inLen
  fits : s.windowsFit

/-- FIN's step is enabled: STATE = RUN, the stream has ended, and the run's windows lie in the stores (40 R100, R101). -/
structure State.EndReady (s : State) : Prop where
  running : s.status = .run
  ended : s.posIn = s.inLen
  fits : s.windowsFit

/-- The host may write: STATE is IDLE or DONE (41 R130; 70 R193). -/
def State.Writable (s : State) : Prop := s.status = .idle ∨ s.status = .done

/-- The successful end of a run: DONE with CAUSE = NONE (70 R199). -/
def State.Successful (s : State) : Prop := s.status = .done ∧ s.cause = Cause.none.code

/-- A run has ended: STATE is DONE or FAULT (40 R107, 70 R199). -/
def State.Ended (s : State) : Prop := s.status = .done ∨ s.status = .fault

/-- `k` steps of the machine, through the host's interface. -/
abbrev runFor (k : Nat) (s : State) : Answer := Host.Core.run Sys2Proof.core k s

/-- `bs` are the bytes of the compressed stream `IMEM[0 .. IN_LEN - 1]`, each of them written (30 R80). -/
def State.StreamIs (s : State) (bs : List Byte) : Prop :=
  bs.length = s.inLen ∧ ∀ i, i < s.inLen → Memory.read s.imem i = bs[i]?

/-- The expansion of a unit: `exp(SYM c)` is the first LEN[c] bytes of SYM[c], with LEN[c] in 1..8; `exp(ESC b) = [b]`
(40 section 4). None for a code whose entry is ⊥ or whose length is illegal. -/
def State.expansion (s : State) : Instr → Option (List Byte)
  | .sym c =>
    match s.len[c.val], s.sym[c.val] with
    | some n, some w => if 1 ≤ n.toNat ∧ n.toNat ≤ 8 then some (symbolBytes w n.toNat) else none
    | _, _ => none
  | .esc b => some [b]
  | _ => none

/-- The decompressed string of a sequence of units, `exp(u_1) ++ ... ++ exp(u_n)` (40 section 4). -/
def State.expand (s : State) : List Instr → Option (List Byte)
  | [] => some []
  | u :: us =>
    match s.expansion u, s.expand us with
    | some x, some xs => some (x ++ xs)
    | _, _ => none

/-- A well-formed run's data: the stream parses into units with no dangling escape, every byte is written, every code used has a
legal entry, and `out` is the decompressed string (40 section 4). -/
def State.Decompresses (s : State) (out : List Byte) : Prop :=
  ∃ bs us, s.StreamIs bs ∧ parseStream bs = some us ∧ s.expand us = some out

/-- Is offset `i` the one that FIN forces to the terminator, for a logical length `l` (40 R104, R110)? -/
def State.forcedAt (s : State) (l i : Nat) : Prop :=
  s.zt = some true ∧ s.outSize ≤ l ∧ 0 < s.outSize ∧ i = s.outSize - 1

/-- The premise `ztTableWellFormed` (10 R25): some code is the one-byte symbol 0x00, and the byte 0x00 occurs in no longer symbol.
The engine never reads it. (notes/assumptions/22.md) -/
def State.ztTableWellFormed (s : State) : Prop :=
  (∃ t : Fin Config.nCodes, s.expansion (.sym t) = some [Config.terminator]) ∧
  ∀ (c : Fin Config.nCodes) (bs : List Byte),
    s.expansion (.sym c) = some bs → 1 < bs.length → Config.terminator ∉ bs

/-- The offsets of the stream at which the run from POS_IN on starts a unit: each unit starts where the last ended (30 R83, R87). -/
inductive State.UnitAt (s : State) : Nat → Prop where
  | here : State.UnitAt s s.posIn
  | afterSym {p : Nat} {b : Byte} (at_p : State.UnitAt s p) (code : Memory.read s.imem p = some b)
      (not_escape : b ≠ Config.escapeMarker) : State.UnitAt s (p + 1)
  | afterEsc {p : Nat} (at_p : State.UnitAt s p) (marker : Memory.read s.imem p = some Config.escapeMarker) :
      State.UnitAt s (p + 2)

/-- Two runs with equal data: equal IMEM[0 .. IN_LEN-1], IN_LEN, OUT_SIZE, ZT and table entries for the codes used, at the start of
a run (40 R116). Everything else may differ. -/
structure State.SameRunData (s t : State) : Prop where
  running : s.status = .run ∧ t.status = .run
  no_cause : s.cause = Cause.none.code ∧ t.cause = Cause.none.code
  at_start : s.posIn = 0 ∧ t.posIn = 0 ∧ s.posOut = 0 ∧ t.posOut = 0
  inLen_eq : s.inLen = t.inLen
  outSize_eq : s.outSize = t.outSize
  zt_eq : s.zt = t.zt
  stream_eq : ∀ i, i < s.inLen → Memory.read s.imem i = Memory.read t.imem i
  entries_eq : ∀ (p : Nat) (c : Byte), p < s.inLen → s.UnitAt p → Memory.read s.imem p = some c →
    c ≠ Config.escapeMarker → entryAt s.len c = entryAt t.len c ∧ entryAt s.sym c = entryAt t.sym c

/-- A sequence of instructions, one step each, stopping at the first that answers no state. -/
def execSeq : List Instr → State → Answer
  | [], s => .next s
  | i :: is, s =>
    match exec i s with
    | .next t => execSeq is t
    | .fault r => .fault r
    | .refused r => .refused r

/-- The causes each instruction can raise, by the column "raised by" of 60_exceptions R160. -/
def causesOf : Instr → List Cause
  | .sym _ => [.badLength, .unwrittenEntry]
  | .esc _ => [.danglingEscape, .unwrittenInput]
  | .fin => []
  | .wrZt _ => [.tableBusy]
  | .wrLen _ _ => [.tableBusy, .badHostOperand]
  | .wrSym _ _ => [.tableBusy, .badHostOperand]
  | .loadTable _ _ _ => [.tableBusy]
  | .start _ _ => [.notConfigured, .range, .lengthOverflow, .startWhileBusy]
  | .wrIn _ _ => [.bufferBusy, .badHostOperand]
  | .wrOut _ _ => [.bufferBusy, .badHostOperand]
  | .rdIn _ => [.badHostOperand]
  | .rdOut _ => [.badHostOperand]
  | .rdZt => []
  | .rdLen _ => [.badHostOperand]
  | .rdSym _ => [.badHostOperand]
  | .rdStatus => []
  | .rdCursors => []
  | .rdResult => []
  | .reset => []

/-- Every element of 10_state R20 is at the value 10_state R39 gives it after reset. -/
structure State.AtResetValues (s : State) : Prop where
  zt_unwritten : s.zt = none
  len_unwritten : ∀ c : Fin Config.nCodes, s.len[c.val] = none
  sym_unwritten : ∀ c : Fin Config.nCodes, s.sym[c.val] = none
  inLen_zero : s.inLen = 0
  outSize_zero : s.outSize = 0
  posIn_zero : s.posIn = 0
  posOut_zero : s.posOut = 0
  result_zero : s.result = 0
  idle : s.status = .idle
  no_cause : s.cause = 0#4
  imem_unwritten : ∀ a, Memory.read s.imem a = none
  omem_unwritten : ∀ a, Memory.read s.omem a = none

/-- Is the instruction a table write (41 section 2) whose code, if it has one, names an entry (10 R24)? -/
def isTableWrite : Instr → Bool
  | .wrZt _ => true
  | .wrLen c _ => isTableCode c
  | .wrSym c _ => isTableCode c
  | .loadTable _ _ _ => true
  | .sym _ => false
  | .esc _ => false
  | .fin => false
  | .start _ _ => false
  | .wrIn _ _ => false
  | .wrOut _ _ => false
  | .rdIn _ => false
  | .rdOut _ => false
  | .rdZt => false
  | .rdLen _ => false
  | .rdSym _ => false
  | .rdStatus => false
  | .rdCursors => false
  | .rdResult => false
  | .reset => false

/-- Is the instruction a read action (41 section 4)? -/
def isRead : Instr → Bool
  | .rdIn _ => true
  | .rdOut _ => true
  | .rdZt => true
  | .rdLen _ => true
  | .rdSym _ => true
  | .rdStatus => true
  | .rdCursors => true
  | .rdResult => true
  | .sym _ => false
  | .esc _ => false
  | .fin => false
  | .wrZt _ => false
  | .wrLen _ _ => false
  | .wrSym _ _ => false
  | .loadTable _ _ _ => false
  | .start _ _ => false
  | .wrIn _ _ => false
  | .wrOut _ _ => false
  | .reset => false

end Sys2Proof.Machine
end

