-- ==== Sys2Proof/Certificates/Slice0/Obligations.lean ====
section
/-! DEFINITION. The statements for the provers. Each docstring names the rule of spec/ it formalises. -/

open Sys2Proof Sys2Proof.Machine

/-! ### Encoding -/

/-- 30_encoding R83, R84: byte 0 alone decides the format; the code is byte 0, the literal is byte 1 as it stands. -/
def Obligations.ByteZeroSelectsFormat : Prop :=
  (∀ (lit : Byte) (rest : List Byte), decode (0xFF#8 :: lit :: rest) = .ok (.esc lit, rest)) ∧
  (∀ (b0 : Byte) (rest : List Byte), b0 ≠ 0xFF#8 →
    ∃ code : Fin 255, code.val = b0.toNat ∧ decode (b0 :: rest) = .ok (.sym code, rest))

/-- 30_encoding R85: every value of byte 0 is matched by exactly one row of the opcode map, 0xFF by ESC's and every other value by
one of SYM's eight patterns, whose unit has `code` equal to that value. -/
def Obligations.OpcodeMapCoversEveryByte : Prop :=
  ∀ b : Byte,
    (escPattern.selects b = true ↔ b = 0xFF#8) ∧
    ((symPatterns.filter fun r => r.selects b).length = if b = 0xFF#8 then 0 else 1) ∧
    (b ≠ 0xFF#8 → ∃ code : Fin 255, code.val = b.toNat ∧ ∀ rest, decode (b :: rest) = .ok (.sym code, rest)) ∧
    (b = 0xFF#8 → ∀ lit rest, decode (b :: lit :: rest) = .ok (.esc lit, rest))

/-- 30_encoding R81, R82, R86, R91: words written out from the two formats decode to the units they stand for; the lone escape
marker and the empty sequence are rejected by name. -/
def Obligations.WrittenOutWordsDecode : Prop :=
  decode [0x05#8] = .ok (.sym 5, []) ∧
  decode [0x00#8] = .ok (.sym 0, []) ∧
  decode [0xFE#8, 0x11#8] = .ok (.sym 254, [0x11#8]) ∧
  decode [0xFF#8, 0x21#8] = .ok (.esc 0x21#8, []) ∧
  decode [0xFF#8, 0xFF#8, 0x05#8] = .ok (.esc 0xFF#8, [0x05#8]) ∧
  decode [0xFF#8] = .error .danglingEscape ∧
  decode [] = .error .endOfStream

/-- 30_encoding R80 to R84: decoding the encoding of a unit, with any bytes after it, gives the unit and those bytes. -/
def Obligations.EncodedUnitDecodes : Prop :=
  ∀ (i : Instr) (bs rest : List Byte), encode i = some bs → decode (bs ++ rest) = .ok (i, rest)

/-- 30_encoding R86, the other direction: what the decoder takes from the front is exactly the encoding of the unit it answers, and
the decoder refuses nothing but the empty sequence and the lone escape marker. -/
def Obligations.DecodedUnitEncodes : Prop :=
  (∀ (bs rest : List Byte) (i : Instr), decode bs = .ok (i, rest) → ∃ e, encode i = some e ∧ bs = e ++ rest) ∧
  (∀ bs : List Byte, bs ≠ [] → bs ≠ [0xFF#8] → ∃ r, decode bs = .ok r)

/-- 30_encoding R87: a stream splits into units in exactly one way, or into units followed by a dangling escape. -/
def Obligations.StreamParsesUniquely : Prop :=
  (∀ us : List Instr, (∀ u ∈ us, encode u ≠ none) → parseStream (encodeStream us) = some us) ∧
  (∀ (bs : List Byte) (us : List Instr), parseStream bs = some us →
    encodeStream us = bs ∧ ∀ u ∈ us, encode u ≠ none) ∧
  (∀ bs : List Byte, parseStream bs = none ↔
    ∃ us : List Instr, (∀ u ∈ us, encode u ≠ none) ∧ bs = encodeStream us ++ [0xFF#8])

/-- 30_encoding R91, R92: a listing with no raw byte assembles to a stream that parses into the units its lines stand for. -/
def Obligations.ListingAssemblesToItsUnits : Prop :=
  ∀ (lines : List Line) (us : List Instr), lines.map Line.unit = us.map some → parseStream (assemble lines) = some us

/-! ### Who moves, and what the engine takes -/

/-- 40_stream_units R101: when the bytes at POS_IN, inside the stream, decode to a unit, a step of the engine is exec of that unit;
the engine's turn is used up. -/
def Obligations.StepRunsTheDecodedUnit : Prop :=
  ∀ (s : State) (bs : List Byte) (i : Instr),
    outsideSpec s = none → s.posIn + bs.length ≤ s.inLen →
    (∀ j, j < bs.length → Memory.read s.imem (s.posIn + j) = bs[j]?) → decode bs = .ok (i, []) →
    (s.turns = [] → step s = exec i s) ∧
    (∀ rest, s.turns = .engine :: rest → step s = exec i { s with turns := rest })

/-- 40_stream_units R101: one engine step: FIN at the stream's end; UNWRITTEN_INPUT for a ⊥ code byte; SYM for a code byte other than
0xFF; ESC for 0xFF, whose faults for a missing literal do not depend on the literal (R103). The premise `windowsFit` is one of the
invariants of R40 ((b) and (c)), and RUN is when the engine has a step (R100). -/
def Obligations.EngineDispatch : Prop :=
  ∀ s : State, outsideSpec s = none → s.status = .run → s.windowsFit → s.turns = [] →
    (s.posIn = s.inLen → step s = exec .fin s) ∧
    (s.posIn ≠ s.inLen → Memory.read s.imem s.posIn = none →
      step s = .next { s with status := .fault, cause := 4#4 }) ∧
    (∀ code : Fin 255, s.posIn ≠ s.inLen → Memory.read s.imem s.posIn = some (BitVec.ofNat 8 code.val) →
      step s = exec (.sym code) s) ∧
    (∀ lit : Byte, s.posIn ≠ s.inLen → Memory.read s.imem s.posIn = some 0xFF#8 →
      (s.posIn + 1 = s.inLen ∨ Memory.read s.imem (s.posIn + 1) = none ∨
        Memory.read s.imem (s.posIn + 1) = some lit) →
      step s = exec (.esc lit) s)

/-- 40_stream_units R100: the engine has a step exactly when STATE = RUN, and every such step advances, finishes or faults. The
premise `windowsFit` is invariants (b) and (c) of R40. -/
def Obligations.EngineStepsExactlyInRun : Prop :=
  ∀ s : State, s.windowsFit →
    ((∃ t, engineStep s = .next t) ↔ s.status = .run) ∧
    (s.status ≠ .run → engineStep s = .fault .noMove) ∧
    (∀ t, engineStep s = .next t →
      (t.status = .run ∧ s.posIn < t.posIn) ∨ t.status = .done ∨ t.status = .fault)

/-- 00_scope R6, 41_host_actions R130: a host turn is exec of its action; the turn is used up. -/
def Obligations.StepRunsTheHostAction : Prop :=
  ∀ (s : State) (i : Instr) (rest : List Turn),
    outsideSpec s = none → s.turns = .host i :: rest → i.agent = .host → step s = exec i { s with turns := rest }

/-- 41_host_actions R130: the host may attempt any action in any state; every action answers a next state. -/
def Obligations.HostActionAlwaysAnswers : Prop :=
  ∀ (i : Instr) (s : State), i.agent = .host → ∃ t, exec i s = .next t

/-- 60_exceptions R165: an engine step and a host action never happen at once, the interleaving orders them. A host table write that
comes after FIN is legal and has its effect, one that comes before FIN faults TABLE_BUSY, and both orders are admitted. -/
def Obligations.EitherOrderIsAdmitted : Prop :=
  ∀ (s : State) (i : Instr), outsideSpec s = none → s.EndReady → isTableWrite i = true →
    (∃ u t, runFor 1 { s with turns := [.engine, .host i] } = .next u ∧ u.status = .done ∧ u.result = s.posOut ∧
      runFor 2 { s with turns := [.engine, .host i] } = .next t ∧ exec i { u with turns := [] } = .next t ∧
      t.status = .done ∧ t.cause = s.cause ∧ t.result = s.posOut) ∧
    (runFor 1 { s with turns := [.host i, .engine] } =
      .next { s with turns := [.engine], status := .fault, cause := 9#4 })

/-- The states in which the model refuses every step, by name. That the spec has a model refuse is said of overlapping stores
(20_memory R59, 93_implementation_defined O11), split actions (O12) and a reserved CAUSE code (60_exceptions R160, O10). The rest is the
model's choice: the first clause, refusing parameters that break the constraints (00_scope R7 states the constraints alone), the order of
the refusals, and refusing every step, RESET included (notes/assumptions/16.md); and the cases a binding is told apart by
(notes/assumptions/15.md). -/
def Obligations.RefusesWhatLiesOutsideTheSpec : Prop :=
  ∀ s : State,
    (s.params.wLen < 4 ∨ 2 ^ s.params.wLen - 1 < s.params.inCap ∨ 2 ^ s.params.wLen - 1 < s.params.outCap →
      step s = .refused .illegalParameters) ∧
    (s.params.wellFormed = true → s.params.binding = .overlapping → step s = .refused .overlappingStores) ∧
    (s.params.wellFormed = true → s.params.binding = .split → step s = .refused .splitActions) ∧
    (s.params.wellFormed = true → s.params.binding = .atomicDisjoint → 12 ≤ s.cause.toNat →
      step s = .refused .reservedCause)

/-- The model's own placing of an instruction word (notes/assumptions/7.md): the next step is exec of the instruction the decoder
reads from the word. -/
def Obligations.PlacedWordRunsNext : Prop :=
  ∀ (s : State) (nbits w : Nat) (i : Instr),
    s.params.wellFormed = true → s.params.binding = .atomicDisjoint → decodeTableWord nbits w = some i →
    step (s.withFetchWord nbits w) = exec i (s.withFetchWord nbits w)

/-! ### The engine's instructions -/

/-- 40_stream_units R102: SYM. A written entry of length n in 1..8 puts out exactly the bytes j < n that fall below OUT_SIZE, at
POS_OUT + j, advances POS_OUT by n whatever was written, and POS_IN by 1; a ⊥ entry faults UNWRITTEN_ENTRY, and a length outside
1..8 faults BAD_LENGTH, each changing only STATE and CAUSE. Nothing else changes. -/
def Obligations.SymUnit : Prop :=
  ∀ (code : Fin 255) (s : State), s.UnitReady →
    (∀ (n : Byte) (w : SymWord), s.len[code.val] = some n → s.sym[code.val] = some w → 1 ≤ n.toNat → n.toNat ≤ 8 →
      ∃ t, exec (.sym code) s = .next t ∧
        t = { s with omem := t.omem, posOut := s.posOut + n.toNat, posIn := s.posIn + 1 } ∧
        (∀ j, j < n.toNat → s.posOut + j < s.outSize →
          Memory.read t.omem (s.posOut + j) = some (w.extractLsb' (8 * j) 8)) ∧
        (∀ a, ¬ (s.posOut ≤ a ∧ a < s.posOut + n.toNat ∧ a < s.outSize) →
          Memory.read t.omem a = Memory.read s.omem a)) ∧
    ((s.len[code.val] = none ∨ s.sym[code.val] = none) →
      exec (.sym code) s = .next { s with status := .fault, cause := 3#4 }) ∧
    (∀ (n : Byte) (w : SymWord), s.len[code.val] = some n → s.sym[code.val] = some w → (n.toNat < 1 ∨ 8 < n.toNat) →
      exec (.sym code) s = .next { s with status := .fault, cause := 2#4 })

/-- 40_stream_units R103: ESC. The literal goes out at POS_OUT if that lies below OUT_SIZE, POS_OUT advances by 1 and POS_IN by 2; an
escape marker that is the stream's last byte faults DANGLING_ESCAPE and a ⊥ literal faults UNWRITTEN_INPUT, each changing only STATE
and CAUSE. Nothing else changes. -/
def Obligations.EscUnit : Prop :=
  ∀ (lit : Byte) (s : State), s.UnitReady →
    (s.posIn + 1 ≠ s.inLen → Memory.read s.imem (s.posIn + 1) = some lit →
      ∃ t, exec (.esc lit) s = .next t ∧
        t = { s with omem := t.omem, posOut := s.posOut + 1, posIn := s.posIn + 2 } ∧
        (s.posOut < s.outSize → Memory.read t.omem s.posOut = some lit) ∧
        (∀ a, ¬ (a = s.posOut ∧ a < s.outSize) → Memory.read t.omem a = Memory.read s.omem a)) ∧
    (s.posIn + 1 = s.inLen → exec (.esc lit) s = .next { s with status := .fault, cause := 1#4 }) ∧
    (s.posIn + 1 ≠ s.inLen → Memory.read s.imem (s.posIn + 1) = none →
      exec (.esc lit) s = .next { s with status := .fault, cause := 4#4 })

/-- 40_stream_units R104: FIN. With ZT = 1, POS_OUT >= OUT_SIZE and OUT_SIZE > 0 the byte at OUT_SIZE - 1 becomes 0x00; no other byte
changes; RESULT takes POS_OUT and STATE becomes DONE. Nothing else changes. That ZT is written while STATE = RUN is the invariant
`zt_written`. -/
def Obligations.FinStep : Prop :=
  ∀ (s : State) (z : Bool), s.EndReady → s.zt = some z →
    ∃ t, exec .fin s = .next t ∧
      t = { s with omem := t.omem, result := s.posOut, status := .done } ∧
      (z = true → s.outSize ≤ s.posOut → 0 < s.outSize → Memory.read t.omem (s.outSize - 1) = some 0x00#8) ∧
      (∀ a, ¬ (z = true ∧ s.outSize ≤ s.posOut ∧ 0 < s.outSize ∧ a = s.outSize - 1) →
        Memory.read t.omem a = Memory.read s.omem a)

/-- 10_state R23: the padding bytes of a symbol word have no effect. Two words that agree on the first n bytes, n the entry's length,
give SYM the same outcome. -/
def Obligations.PaddingHasNoEffect : Prop :=
  ∀ (code : Fin 255) (n : Byte) (w w' : SymWord) (s : State),
    s.UnitReady → s.len[code.val] = some n → s.sym[code.val] = some w →
    (∀ j, j < n.toNat → w.extractLsb' (8 * j) 8 = w'.extractLsb' (8 * j) 8) →
    ∃ t, exec (.sym code) s = .next t ∧
      exec (.sym code) { s with sym := s.sym.set code.val (some w') } =
        .next { t with sym := t.sym.set code.val (some w') }

/-- 40_stream_units R109: an engine step writes OMEM below OUT_SIZE alone; a unit's step writes only the offsets from its POS_OUT up
to the next one, and FIN only OUT_SIZE - 1; IMEM, the table, IN_LEN and OUT_SIZE are never written. -/
def Obligations.EngineWriteBounds : Prop :=
  ∀ s t : State, engineStep s = .next t →
    t.imem = s.imem ∧ t.zt = s.zt ∧ t.len = s.len ∧ t.sym = s.sym ∧ t.inLen = s.inLen ∧ t.outSize = s.outSize ∧
    (∀ a, s.outSize ≤ a → Memory.read t.omem a = Memory.read s.omem a) ∧
    (∀ a, ¬ (s.posOut ≤ a ∧ a < t.posOut) → ¬ (t.status = .done ∧ a + 1 = s.outSize) →
      Memory.read t.omem a = Memory.read s.omem a)

/-! ### The table actions -/

/-- 41_host_actions R131: WR_ZT. -/
def Obligations.WrZtAction : Prop :=
  ∀ (v : Bool) (s : State),
    (s.Writable → exec (.wrZt v) s = .next { s with zt := some v }) ∧
    (s.status = .run → exec (.wrZt v) s = .next { s with status := .fault, cause := 9#4 }) ∧
    (s.status = .fault → exec (.wrZt v) s = .next s)

/-- 41_host_actions R132: WR_LEN. Any 8-bit value is stored; code 255 has no entry, and is checked before the run in progress. -/
def Obligations.WrLenAction : Prop :=
  ∀ (c v : Byte) (s : State),
    (c ≠ 255#8 → s.Writable →
      ∃ t, exec (.wrLen c v) s = .next t ∧ t = { s with len := t.len } ∧
        ∀ d, entryAt t.len d = if d = c then some v else entryAt s.len d) ∧
    (c = 255#8 → s.status ≠ .fault → exec (.wrLen c v) s = .next { s with status := .fault, cause := 11#4 }) ∧
    (c ≠ 255#8 → s.status = .run → exec (.wrLen c v) s = .next { s with status := .fault, cause := 9#4 }) ∧
    (s.status = .fault → exec (.wrLen c v) s = .next s)

/-- 41_host_actions R133: WR_SYM. -/
def Obligations.WrSymAction : Prop :=
  ∀ (c : Byte) (w : SymWord) (s : State),
    (c ≠ 255#8 → s.Writable →
      ∃ t, exec (.wrSym c w) s = .next t ∧ t = { s with sym := t.sym } ∧
        ∀ d, entryAt t.sym d = if d = c then some w else entryAt s.sym d) ∧
    (c = 255#8 → s.status ≠ .fault → exec (.wrSym c w) s = .next { s with status := .fault, cause := 11#4 }) ∧
    (c ≠ 255#8 → s.status = .run → exec (.wrSym c w) s = .next { s with status := .fault, cause := 9#4 }) ∧
    (s.status = .fault → exec (.wrSym c w) s = .next s)

/-- 41_host_actions R134: LOAD_TABLE writes the flag and every entry, and nothing else. Last clause: it has the effect of WR_ZT followed
by 255 WR_LEN and 255 WR_SYM actions. The rule says so of every state but RUN; there both end in the same fault, so the clause holds in
every state. -/
def Obligations.LoadTableAction : Prop :=
  ∀ (z : Bool) (lens : Vector Byte 255) (syms : Vector SymWord 255) (s : State),
    (s.Writable →
      ∃ t, exec (.loadTable z lens syms) s = .next t ∧ t = { s with zt := some z, len := t.len, sym := t.sym } ∧
        ∀ c : Fin 255, t.len[c.val] = some lens[c.val] ∧ t.sym[c.val] = some syms[c.val]) ∧
    (s.status = .run → exec (.loadTable z lens syms) s = .next { s with status := .fault, cause := 9#4 }) ∧
    (s.status = .fault → exec (.loadTable z lens syms) s = .next s) ∧
    execSeq (.wrZt z :: ((List.finRange 255).map fun c => Instr.wrLen (BitVec.ofNat 8 c.val) lens[c.val]) ++
      ((List.finRange 255).map fun c => Instr.wrSym (BitVec.ofNat 8 c.val) syms[c.val])) s =
    exec (.loadTable z lens syms) s

/-- 20_memory R53, 00_scope R9: on a byte-addressed bus the byte at offset j of the 8-byte transfer is byte(w, j), in both directions,
and the two forms carry the same word. -/
def Obligations.BusByteOrder : Prop :=
  (∀ (w : SymWord) (j : Fin 8), (busBytes w)[j.val] = w.extractLsb' (8 * j.val) 8) ∧
  (∀ (bs : Vector Byte 8) (j : Fin 8), (wordOfBusBytes bs).extractLsb' (8 * j.val) 8 = bs[j.val]) ∧
  (∀ w : SymWord, wordOfBusBytes (busBytes w) = w)

/-! ### The buffer actions -/

/-- 41_host_actions R135: START, its faults in their order, and the run begun with RESULT and everything else kept. -/
def Obligations.StartAction : Prop :=
  ∀ (m n : Nat) (s : State),
    (s.Writable → s.zt ≠ none → m ≤ s.params.inCap → n ≤ s.params.outCap → 8 * m ≤ 2 ^ s.params.wLen - 1 →
      exec (.start m n) s = .next { s with inLen := m, outSize := n, posIn := 0, posOut := 0, status := .run }) ∧
    (s.status = .fault → exec (.start m n) s = .next s) ∧
    (s.status = .run → exec (.start m n) s = .next { s with status := .fault, cause := 8#4 }) ∧
    (s.Writable → s.zt = none → exec (.start m n) s = .next { s with status := .fault, cause := 5#4 }) ∧
    (s.Writable → s.zt ≠ none → (s.params.inCap < m ∨ s.params.outCap < n) →
      exec (.start m n) s = .next { s with status := .fault, cause := 6#4 }) ∧
    (s.Writable → s.zt ≠ none → m ≤ s.params.inCap → n ≤ s.params.outCap → 2 ^ s.params.wLen - 1 < 8 * m →
      exec (.start m n) s = .next { s with status := .fault, cause := 7#4 })

/-- 41_host_actions R136: WR_IN. The offset is checked before the run in progress. -/
def Obligations.WrInAction : Prop :=
  ∀ (a : Nat) (b : Byte) (s : State),
    (a < s.params.inCap → s.Writable →
      ∃ t, exec (.wrIn a b) s = .next t ∧ t = { s with imem := t.imem } ∧
        ∀ x, Memory.read t.imem x = if x = a then some b else Memory.read s.imem x) ∧
    (s.params.inCap ≤ a → s.status ≠ .fault → exec (.wrIn a b) s = .next { s with status := .fault, cause := 11#4 }) ∧
    (a < s.params.inCap → s.status = .run → exec (.wrIn a b) s = .next { s with status := .fault, cause := 10#4 }) ∧
    (s.status = .fault → exec (.wrIn a b) s = .next s)

/-- 41_host_actions R137: WR_OUT. -/
def Obligations.WrOutAction : Prop :=
  ∀ (a : Nat) (b : Byte) (s : State),
    (a < s.params.outCap → s.Writable →
      ∃ t, exec (.wrOut a b) s = .next t ∧ t = { s with omem := t.omem } ∧
        ∀ x, Memory.read t.omem x = if x = a then some b else Memory.read s.omem x) ∧
    (s.params.outCap ≤ a → s.status ≠ .fault → exec (.wrOut a b) s = .next { s with status := .fault, cause := 11#4 }) ∧
    (a < s.params.outCap → s.status = .run → exec (.wrOut a b) s = .next { s with status := .fault, cause := 10#4 }) ∧
    (s.status = .fault → exec (.wrOut a b) s = .next s)

/-! ### The read actions. Where the rule says "any value" the statement says that some value is returned, and nothing of which. -/

/-- 41_host_actions R138: RD_IN. -/
def Obligations.RdInAction : Prop :=
  ∀ (a : Nat) (s : State),
    (∀ b, a < s.params.inCap → Memory.read s.imem a = some b →
      exec (.rdIn a) s = .next { s with answer := some (.byte b) }) ∧
    (a < s.params.inCap → Memory.read s.imem a = none →
      ∃ v d, exec (.rdIn a) s = .next { s with answer := some (.byte v), draws := d }) ∧
    (s.params.inCap ≤ a → s.status = .fault →
      ∃ v d, exec (.rdIn a) s = .next { s with answer := some (.byte v), draws := d }) ∧
    (s.params.inCap ≤ a → s.status ≠ .fault → exec (.rdIn a) s = .next { s with status := .fault, cause := 11#4 })

/-- 41_host_actions R139, R130: RD_OUT. In RUN a legal offset returns any value. That the operand is checked first, so that in RUN an
offset at or above OUT_CAP raises BAD_HOST_OPERAND, is deduced from R130's order of checks (notes/assumptions/17.md, DEDUCED, unsafe):
R139 lists its clauses without an order. -/
def Obligations.RdOutAction : Prop :=
  ∀ (a : Nat) (s : State),
    (∀ b, a < s.params.outCap → s.status ≠ .run → Memory.read s.omem a = some b →
      exec (.rdOut a) s = .next { s with answer := some (.byte b) }) ∧
    (a < s.params.outCap → (s.status = .run ∨ Memory.read s.omem a = none) →
      ∃ v d, exec (.rdOut a) s = .next { s with answer := some (.byte v), draws := d }) ∧
    (s.params.outCap ≤ a → s.status = .fault →
      ∃ v d, exec (.rdOut a) s = .next { s with answer := some (.byte v), draws := d }) ∧
    (s.params.outCap ≤ a → s.status ≠ .fault → exec (.rdOut a) s = .next { s with status := .fault, cause := 11#4 })

/-- 41_host_actions R140: RD_ZT. -/
def Obligations.RdZtAction : Prop :=
  ∀ s : State,
    (∀ v, s.zt = some v → exec .rdZt s = .next { s with answer := some (.zt v) }) ∧
    (s.zt = none → ∃ v d, exec .rdZt s = .next { s with answer := some (.zt v), draws := d })

/-- 41_host_actions R141: RD_LEN. -/
def Obligations.RdLenAction : Prop :=
  ∀ (c : Byte) (s : State),
    (∀ v, c ≠ 255#8 → entryAt s.len c = some v → exec (.rdLen c) s = .next { s with answer := some (.byte v) }) ∧
    (c ≠ 255#8 → entryAt s.len c = none →
      ∃ v d, exec (.rdLen c) s = .next { s with answer := some (.byte v), draws := d }) ∧
    (c = 255#8 → s.status = .fault →
      ∃ v d, exec (.rdLen c) s = .next { s with answer := some (.byte v), draws := d }) ∧
    (c = 255#8 → s.status ≠ .fault → exec (.rdLen c) s = .next { s with status := .fault, cause := 11#4 })

/-- 41_host_actions R142: RD_SYM. -/
def Obligations.RdSymAction : Prop :=
  ∀ (c : Byte) (s : State),
    (∀ w, c ≠ 255#8 → entryAt s.sym c = some w → exec (.rdSym c) s = .next { s with answer := some (.word w) }) ∧
    (c ≠ 255#8 → entryAt s.sym c = none →
      ∃ w d, exec (.rdSym c) s = .next { s with answer := some (.word w), draws := d }) ∧
    (c = 255#8 → s.status = .fault →
      ∃ w d, exec (.rdSym c) s = .next { s with answer := some (.word w), draws := d }) ∧
    (c = 255#8 → s.status ≠ .fault → exec (.rdSym c) s = .next { s with status := .fault, cause := 11#4 })

/-- 41_host_actions R143, 10_state R31: RD_STATUS returns (STATE, CAUSE) in every state, STATE in its 2-bit encoding. -/
def Obligations.RdStatusAction : Prop :=
  ∀ s : State,
    (s.status = .idle → exec .rdStatus s = .next { s with answer := some (.status 0#2 s.cause) }) ∧
    (s.status = .run → exec .rdStatus s = .next { s with answer := some (.status 1#2 s.cause) }) ∧
    (s.status = .done → exec .rdStatus s = .next { s with answer := some (.status 2#2 s.cause) }) ∧
    (s.status = .fault → exec .rdStatus s = .next { s with answer := some (.status 3#2 s.cause) })

/-- 41_host_actions R144: RD_CURSORS returns the four registers in every state. -/
def Obligations.RdCursorsAction : Prop :=
  ∀ s : State,
    exec .rdCursors s = .next { s with answer := some (.cursors s.inLen s.outSize s.posIn s.posOut) }

/-- 41_host_actions R145: RD_RESULT returns RESULT in DONE, and any value of W_LEN bits in every other state. -/
def Obligations.RdResultAction : Prop :=
  ∀ s : State,
    (s.status = .done → exec .rdResult s = .next { s with answer := some (.result s.result) }) ∧
    (s.status ≠ .done →
      ∃ v d, v < 2 ^ s.params.wLen ∧ exec .rdResult s = .next { s with answer := some (.result v), draws := d })

/-- 20_memory R57: no read of any state has a side effect. A read action that raises no fault changes nothing but what the host holds
(and the model's count of draws). -/
def Obligations.ReadsHaveNoSideEffect : Prop :=
  ∀ (i : Instr) (s t : State), isRead i = true → exec i s = .next t →
    t = { s with answer := t.answer, draws := t.draws } ∨
    (s.status ≠ .fault ∧ t = { s with status := .fault, cause := 11#4 })

/-! ### Reset -/

/-- 70_reset_and_hazards R190, 10_state R39: RESET works in every state and puts every element to its reset value, and so does
power-on, for every value of the OPEN parameters. -/
def Obligations.ResetAction : Prop :=
  (∀ s : State, ∃ t, exec .reset s = .next t ∧ t.AtResetValues) ∧
  (∀ p : Params, (State.powerOn p).AtResetValues) ∧
  State.reset.AtResetValues

/-- The model's own choice (notes/assumptions/18.md): what is no element of 10_state R20, that is the parameters, the turns, what the
host holds and the count of draws, is kept by RESET. -/
def Obligations.ResetKeepsWhatIsNoElement : Prop :=
  ∀ s t : State, exec .reset s = .next t →
    t.params = s.params ∧ t.turns = s.turns ∧ t.answer = s.answer ∧ t.draws = s.draws

/-! ### Faults -/

/-- 60_exceptions R161, 00_scope R13: a fault changes STATE and CAUSE and nothing else, and CAUSE takes the code of a named cause other
than NONE; said of an instruction, and of a step of the machine, which also uses up its turn. In FAULT the engine has no step. -/
def Obligations.FaultEntryIsPrecise : Prop :=
  (∀ (i : Instr) (s t : State), exec i s = .next t → s.status ≠ .fault → t.status = .fault →
    ∃ c : Cause, c ≠ .none ∧ t = { s with status := .fault, cause := c.code }) ∧
  (∀ s t : State, step s = .next t → s.status ≠ .fault → t.status = .fault →
    ∃ c : Cause, c ≠ .none ∧ t = { s with turns := s.turns.tail, status := .fault, cause := c.code }) ∧
  (∀ s : State, s.status = .fault → engineStep s = .fault .noMove)

/-- 60_exceptions R160: each instruction raises only the causes the table gives it. -/
def Obligations.CausesByRaiser : Prop :=
  ∀ (i : Instr) (s t : State), exec i s = .next t → s.status ≠ .fault → t.status = .fault →
    ∃ c ∈ causesOf i, t.cause = c.code

/-- 60_exceptions R162: once STATE = FAULT only RESET changes STATE or CAUSE; write actions and START have no effect, the engine
has no step, and the state is no successful end of a run. -/
def Obligations.FaultsAreSticky : Prop :=
  ∀ s : State, s.status = .fault →
    (∀ (i : Instr) (t : State), exec i s = .next t → i ≠ .reset → t.status = .fault ∧ t.cause = s.cause) ∧
    (∀ i : Instr, i.agent = .host → isRead i = false → i ≠ .reset → exec i s = .next s) ∧
    engineStep s = .fault .noMove ∧ ¬ s.Successful

/-! ### Whole-machine rules -/

/-- 10_state R20, the column "written by": an element changes only by the instructions the table names for it. -/
def Obligations.WritersOfEachElement : Prop :=
  ∀ (i : Instr) (s t : State), exec i s = .next t → i ≠ .reset →
    (t.zt ≠ s.zt → (∃ v, i = .wrZt v) ∨ ∃ z ls ws, i = .loadTable z ls ws) ∧
    (t.len ≠ s.len → (∃ c v, i = .wrLen c v) ∨ ∃ z ls ws, i = .loadTable z ls ws) ∧
    (t.sym ≠ s.sym → (∃ c w, i = .wrSym c w) ∨ ∃ z ls ws, i = .loadTable z ls ws) ∧
    (t.inLen ≠ s.inLen ∨ t.outSize ≠ s.outSize → ∃ m n, i = .start m n) ∧
    (t.posIn ≠ s.posIn ∨ t.posOut ≠ s.posOut → i.agent = .engine ∨ ∃ m n, i = .start m n) ∧
    (t.result ≠ s.result → i = .fin) ∧
    (t.imem ≠ s.imem → ∃ a b, i = .wrIn a b) ∧
    (t.omem ≠ s.omem → i.agent = .engine ∨ ∃ a b, i = .wrOut a b) ∧
    (t.status ≠ s.status → t.status ≠ .fault → i = .fin ∨ ∃ m n, i = .start m n) ∧
    (t.cause ≠ s.cause → t.status = .fault) ∧
    t.params = s.params ∧ t.turns = s.turns

/-- 40_stream_units R105: there is no control transfer; POS_IN changes only by +1 (SYM), by +2 (ESC), or to 0 at START (and at RESET,
70 R190). An engine step never lowers it. -/
def Obligations.NoControlTransfer : Prop :=
  (∀ (i : Instr) (s t : State), exec i s = .next t → t.posIn ≠ s.posIn →
    (∃ c, i = .sym c ∧ t.posIn = s.posIn + 1) ∨ (∃ b, i = .esc b ∧ t.posIn = s.posIn + 2) ∨
    (∃ m n, i = .start m n ∧ t.posIn = 0) ∨ (i = .reset ∧ t.posIn = 0)) ∧
  (∀ s t : State, engineStep s = .next t →
    t.posIn = s.posIn ∨ t.posIn = s.posIn + 1 ∨ t.posIn = s.posIn + 2)

/-- 70_reset_and_hazards R194, R195, 20_memory R64, R67: while STATE = RUN nothing but RESET changes the table, ZT, IMEM, IN_LEN or
OUT_SIZE, and nothing but RESET and the engine changes OMEM. -/
def Obligations.StableDuringRun : Prop :=
  ∀ (i : Instr) (s t : State), s.status = .run → exec i s = .next t → i ≠ .reset →
    t.zt = s.zt ∧ t.len = s.len ∧ t.sym = s.sym ∧ t.imem = s.imem ∧ t.inLen = s.inLen ∧ t.outSize = s.outSize ∧
    (i.agent = .host → t.omem = s.omem)

/-- The invariants of 10_state R40 and what they rest on hold right after reset. -/
def Obligations.ResetMeetsTheInvariant : Prop := State.reset.Inv

/-- 10_state R40: every step of either agent keeps the invariant, from every state that meets it. -/
def Obligations.EveryStepKeepsTheInvariant : Prop :=
  ∀ s t : State, s.Inv → step s = .next t → t.Inv

/-- 10_state R40: invariants (a) to (f) hold in every state reachable from reset, for every legal value of the OPEN parameters and
every interleaving of the host's actions and the engine's steps. -/
def Obligations.ReachableStatesMeetRule40 : Prop :=
  ∀ (p : Params) (ts : List Turn) (k : Nat) (t : State), p.wellFormed = true →
    runFor k { State.powerOn p with turns := ts } = .next t →
    t.posIn ≤ t.inLen ∧ t.inLen ≤ p.inCap ∧ t.outSize ≤ p.outCap ∧ t.posOut ≤ 8 * t.posIn ∧
    (t.status = .run ∨ t.status = .done → 8 * t.inLen ≤ 2 ^ p.wLen - 1) ∧
    (t.cause = 0#4 ↔ t.status ≠ .fault)

/-- 00_scope R10, 40_stream_units R106, R108: in every state that meets the invariant each register of W_LEN bits holds a value of
W_LEN bits. -/
def Obligations.RegistersFitTheirWidth : Prop :=
  ∀ s : State, s.Inv →
    s.inLen < 2 ^ s.params.wLen ∧ s.outSize < 2 ^ s.params.wLen ∧ s.posIn < 2 ^ s.params.wLen ∧
    s.posOut < 2 ^ s.params.wLen ∧ s.result < 2 ^ s.params.wLen

/-! ### Laws of a run -/

/-- 40_stream_units R107: a run ends in DONE or FAULT after at most IN_LEN + 1 engine steps (IN_LEN - POS_IN + 1 from where it
stands), and a host action cannot prolong it: one that leaves STATE = RUN changes nothing but what the host holds, unless it is
RESET, which leaves RUN. -/
def Obligations.RunTerminates : Prop :=
  (∀ s : State, s.Inv → s.params.binding = .atomicDisjoint → s.status = .run → s.turns = [] →
    ∃ (k : Nat) (t : State), k ≤ s.inLen - s.posIn + 1 ∧ runFor k s = .next t ∧ t.Ended) ∧
  (∀ (i : Instr) (s t : State), i.agent = .host → s.status = .run → exec i s = .next t → t.status = .run →
    t = { s with answer := t.answer, draws := t.draws })

/-- 40_stream_units R108, R110, R111: a well-formed run from its START ends in DONE with RESULT the length of the decompressed string;
the bytes below min(L, OUT_SIZE) are the string's, but for the forced terminator; every other byte keeps its value. -/
def Obligations.RunDecompresses : Prop :=
  ∀ (s : State) (out : List Byte),
    s.Inv → s.params.binding = .atomicDisjoint → s.status = .run → s.turns = [] → s.posIn = 0 → s.posOut = 0 →
    s.Decompresses out →
    ∃ (k : Nat) (t : State), k ≤ s.inLen + 1 ∧ runFor k s = .next t ∧ t.Successful ∧
      t = { s with omem := t.omem, posIn := s.inLen, posOut := out.length, result := out.length, status := .done } ∧
      (∀ i, i < out.length → i < s.outSize → ¬ s.forcedAt out.length i → Memory.read t.omem i = out[i]?) ∧
      (∀ i, s.forcedAt out.length i → Memory.read t.omem i = some 0x00#8) ∧
      (∀ i, ¬ (i < out.length ∧ i < s.outSize) → Memory.read t.omem i = Memory.read s.omem i)

/-- 40_stream_units R111: a run writes every offset below min(POS_OUT, OUT_SIZE), and every other byte holds the value it held at START;
so at the run's end, in DONE or in FAULT, whatever the stream, and at every step before it. -/
def Obligations.UntouchedBytesSurvive : Prop :=
  ∀ (s t : State) (k : Nat), s.status = .run → s.turns = [] → s.posIn = 0 → s.posOut = 0 →
    runFor k s = .next t →
    (∀ a, a < t.posOut → a < s.outSize → Memory.read t.omem a ≠ none) ∧
    (∀ a, ¬ (a < t.posOut ∧ a < s.outSize) → Memory.read t.omem a = Memory.read s.omem a)

/-- 40_stream_units R116: two runs with equal data reach the same STATE, CAUSE, RESULT, POS_IN and POS_OUT and write the same OMEM
bytes, step by step. RESULT is compared where it has a meaning, in DONE (10_state R30): a run that faults leaves in it what an earlier
run left, which is none of the rule's data. -/
def Obligations.RunsAreDeterministic : Prop :=
  ∀ (s t : State) (k : Nat) (s' : State),
    s.SameRunData t → s.windowsFit → t.windowsFit → outsideSpec s = none → outsideSpec t = none →
    s.turns = [] → t.turns = [] → s.zt ≠ none → runFor k s = .next s' →
    ∃ t', runFor k t = .next t' ∧
      t'.status = s'.status ∧ t'.cause = s'.cause ∧ t'.posIn = s'.posIn ∧ t'.posOut = s'.posOut ∧
      (s'.status = .done → t'.result = s'.result) ∧
      (∀ a, a < s'.posOut → a < s.outSize → Memory.read t'.omem a = Memory.read s'.omem a) ∧
      (∀ a, ¬ (a < s'.posOut ∧ a < s.outSize) →
        Memory.read s'.omem a = Memory.read s.omem a ∧ Memory.read t'.omem a = Memory.read t.omem a)

/-- 40_stream_units R115: with an empty stream the run's one step is FIN: logical length 0, and nothing is written. -/
def Obligations.EmptyInput : Prop :=
  ∀ (s : State) (n : Nat), outsideSpec s = none → s.Writable → s.zt ≠ none → n ≤ s.params.outCap →
    s.turns = [.host (.start 0 n), .engine] →
    ∃ t, runFor 2 s = .next t ∧ t.status = .done ∧ t.result = 0 ∧ ∀ a, Memory.read t.omem a = Memory.read s.omem a

/-- 41_host_actions R147: after a truncated run, START again with OUT_SIZE = RESULT on the unchanged stream writes all of the string
(with zero-termination on, all but the last byte, which is forced). -/
def Obligations.TruncationRecovery : Prop :=
  ∀ (s : State) (out : List Byte),
    s.Inv → s.params.binding = .atomicDisjoint → s.status = .done → s.Decompresses out → s.result = out.length →
    s.truncated = true → s.result ≤ s.params.outCap → s.turns = [.host (.start s.inLen s.result)] →
    ∃ (k : Nat) (t : State), runFor k s = .next t ∧ t.Successful ∧ t.result = out.length ∧ t.truncated = false ∧
      (∀ i, i < out.length → (s.zt = some true → i + 1 ≠ out.length) → Memory.read t.omem i = out[i]?)

/-- 40_stream_units R117: with a buffer of the string's own length, and either zero-termination off or a string whose last byte is
0x00, the run returns the length and the buffer equals the string exactly. -/
def Obligations.RoundTripFillsTheBuffer : Prop :=
  ∀ (s : State) (out : List Byte),
    s.Inv → s.params.binding = .atomicDisjoint → s.status = .run → s.turns = [] → s.posIn = 0 → s.posOut = 0 →
    s.Decompresses out → s.outSize = out.length →
    (s.zt = some false ∨ out.getLast? = some 0x00#8) →
    ∃ (k : Nat) (t : State), runFor k s = .next t ∧ t.Successful ∧ t.result = out.length ∧
      ∀ i, i < out.length → Memory.read t.omem i = out[i]?
end

