-- ==== Sys2Proof/Laws/Decode.lean ====
section
/-! SUPPORT. What the decoder and the parser do with each form of a stream's front. -/

namespace Sys2Proof

/-- Every byte is a table code or the escape marker (30 R85). -/
theorem byte_cases (b : Byte) : (∃ c : Fin Config.nCodes, b = BitVec.ofNat 8 c.val) ∨ b = Config.escapeMarker := by
  by_cases h : b.toNat < 255
  · exact .inl ⟨⟨_, h⟩, by simp⟩
  · right
    apply BitVec.eq_of_toNat_eq
    have := b.isLt
    simp
    omega

/-- A table code as a byte is not the escape marker. -/
theorem code_ne_escape (c : Fin Config.nCodes) : BitVec.ofNat 8 c.val ≠ Config.escapeMarker := by
  intro h
  have hc : c.val < 255 := c.isLt
  have h' := congrArg BitVec.toNat h
  simp at h'
  omega

/-- Decoding the byte of a table code. -/
theorem decode_sym (c : Fin Config.nCodes) (rest : List Byte) :
    decode (BitVec.ofNat 8 c.val :: rest) = .ok (.sym c, rest) := by
  have hc : c.val < 255 := c.isLt
  have h : (BitVec.ofNat 8 c.val).toNat = c.val := by simp; omega
  have h2 : (BitVec.ofNat 8 c.val).toNat < 255 := by omega
  have e : (⟨_, h2⟩ : Fin Config.nCodes) = c := Fin.ext h
  simp only [decode]
  rw [dif_pos h2, e]

/-- Decoding the escape marker and its literal. -/
theorem decode_esc (l : Byte) (rest : List Byte) : decode (Config.escapeMarker :: l :: rest) = .ok (.esc l, rest) := rfl

/-- Decoding an escape marker with nothing after it. -/
theorem decode_dangling : decode [Config.escapeMarker] = .error .danglingEscape := rfl

@[simp] theorem parseStream_nil : parseStream [] = some [] := by simp [parseStream]

/-- Parsing a stream whose first byte is a table code. -/
theorem parseStream_sym (c : Fin Config.nCodes) (rest : List Byte) :
    parseStream (BitVec.ofNat 8 c.val :: rest) = (parseStream rest).map (Instr.sym c :: ·) := by
  have hc : c.val < 255 := c.isLt
  have h : (BitVec.ofNat 8 c.val).toNat = c.val := by simp; omega
  have h2 : (BitVec.ofNat 8 c.val).toNat < 255 := by omega
  have e : (⟨_, h2⟩ : Fin Config.nCodes) = c := Fin.ext h
  rw [parseStream.eq_def]
  simp only []
  rw [dif_pos h2, e]

/-- Parsing a stream whose first unit is an escape. -/
theorem parseStream_esc (l : Byte) (rest : List Byte) :
    parseStream (Config.escapeMarker :: l :: rest) = (parseStream rest).map (Instr.esc l :: ·) := by
  rw [parseStream.eq_def]
  simp

/-- Parsing a lone escape marker. -/
theorem parseStream_dangling : parseStream [Config.escapeMarker] = none := by decide

end Sys2Proof
end

