-- ==== Sys2Proof/Laws/Memory.lean ====
section
/-! SUPPORT. What the memory operations do: a read after a write, the bytes a clamped write leaves, and the canonical form and the
capacity kept by every operation. -/

namespace Sys2Proof.Machine

@[simp] theorem Memory.read_nil (a : Nat) : Memory.read [] a = none := rfl

/-- A read after a write: the byte written at its own offset, and every other offset as before. -/
theorem Memory.read_write (m : Memory) (a : Nat) (b : Byte) (x : Nat) :
    Memory.read (Memory.write m a b) x = if x = a then some b else Memory.read m x := by
  induction m with
  | nil =>
    by_cases h : x = a
    · simp [Memory.write, Memory.read, h]
    · simp [Memory.write, Memory.read, h, Ne.symm h]
  | cons c m ih =>
    obtain ⟨y, v⟩ := c
    rcases lt_trichotomy a y with h | h | h
    · by_cases hx : x = a
      · subst hx; simp [Memory.write, Memory.read, h]
      · simp [Memory.write, Memory.read, h, hx, Ne.symm hx]
    · subst h
      by_cases hx : x = a
      · subst hx; simp [Memory.write, Memory.read]
      · simp [Memory.write, Memory.read, hx, Ne.symm hx]
    · have h1 : ¬ a < y := by omega
      have h2 : ¬ a = y := by omega
      by_cases hx : y = x
      · subst hx; simp [Memory.write, Memory.read, h1, h2, Ne.symm h2]
      · simp [Memory.write, Memory.read, h1, h2, hx, ih]

/-- Every cell after a write is the new one or one of before. -/
theorem Memory.mem_write {m : Memory} {a : Nat} {b : Byte} {c : Host.Cell} (h : c ∈ Memory.write m a b) :
    c = (a, b) ∨ c ∈ m := by
  induction m with
  | nil => simpa [Memory.write] using h
  | cons d m ih =>
    obtain ⟨y, v⟩ := d
    simp only [Memory.write] at h
    split at h
    · simpa using h
    · split at h
      · rcases List.mem_cons.1 h with h | h
        · exact .inl h
        · exact .inr (List.mem_cons_of_mem _ h)
      · rcases List.mem_cons.1 h with h | h
        · exact .inr (h ▸ List.mem_cons_self)
        · rcases ih h with h | h
          · exact .inl h
          · exact .inr (List.mem_cons_of_mem _ h)

/-- A write keeps the canonical form. -/
theorem Memory.write_wf {m : Memory} (h : Memory.wf m) (a : Nat) (b : Byte) : Memory.wf (Memory.write m a b) := by
  induction m with
  | nil => simp [Memory.write]
  | cons d m ih =>
    obtain ⟨y, v⟩ := d
    obtain ⟨hy, hm⟩ := List.pairwise_cons.1 h
    simp only [Memory.write]
    split
    · refine List.pairwise_cons.2 ⟨?_, h⟩
      rintro c hc
      rcases List.mem_cons.1 hc with rfl | hc
      · assumption
      · have := hy c hc
        simp only at this ⊢
        omega
    · split
      · subst_vars
        exact List.pairwise_cons.2 ⟨hy, hm⟩
      · refine List.pairwise_cons.2 ⟨?_, ih hm⟩
        rintro c hc
        rcases Memory.mem_write hc with rfl | hc
        · simp only
          omega
        · exact hy c hc

/-- A write below the capacity keeps every offset below it. -/
theorem Memory.write_below {m : Memory} {cap a : Nat} (h : Memory.below cap m) (ha : a < cap) (b : Byte) :
    Memory.below cap (Memory.write m a b) := by
  intro c hc
  rcases Memory.mem_write hc with rfl | hc
  · exact ha
  · exact h c hc

/-- A clamped write of a sequence of bytes: exactly the bytes that fall in the range and below `size` are written. -/
theorem Memory.read_emit (size : Nat) (bs : List Byte) (m : Memory) (a x : Nat) :
    Memory.read (Memory.emit size m a bs) x =
      if a ≤ x ∧ x < a + bs.length ∧ x < size then bs[x - a]? else Memory.read m x := by
  induction bs generalizing m a with
  | nil =>
    have h : ¬ (a ≤ x ∧ x < a + ([] : List Byte).length ∧ x < size) := by simp; omega
    rw [if_neg h]; rfl
  | cons b bs ih =>
    rw [Memory.emit, ih]
    by_cases hin : a + 1 ≤ x ∧ x < a + 1 + bs.length ∧ x < size
    · have h' : a ≤ x ∧ x < a + (b :: bs).length ∧ x < size := by simp; omega
      have hi : x - a = (x - (a + 1)) + 1 := by omega
      rw [if_pos hin, if_pos h', hi, List.getElem?_cons_succ]
    · rw [if_neg hin]
      by_cases hx : x = a
      · subst hx
        by_cases hs : x < size
        · simp [hs, Memory.read_write]
        · simp [hs]
      · have h' : ¬ (a ≤ x ∧ x < a + (b :: bs).length ∧ x < size) := by
          simp only [List.length_cons]; omega
        rw [if_neg h']
        split
        · rw [Memory.read_write, if_neg hx]
        · rfl

/-- A clamped write keeps the canonical form. -/
theorem Memory.emit_wf (size : Nat) (bs : List Byte) {m : Memory} (h : Memory.wf m) (a : Nat) :
    Memory.wf (Memory.emit size m a bs) := by
  induction bs generalizing m a with
  | nil => exact h
  | cons b bs ih =>
    refine ih ?_ _
    split
    · exact Memory.write_wf h a b
    · exact h

/-- A clamped write whose clamp lies in the capacity keeps every offset below it. -/
theorem Memory.emit_below {size cap : Nat} (hs : size ≤ cap) (bs : List Byte) {m : Memory} (h : Memory.below cap m) (a : Nat) :
    Memory.below cap (Memory.emit size m a bs) := by
  induction bs generalizing m a with
  | nil => exact h
  | cons b bs ih =>
    refine ih ?_ _
    split
    · exact Memory.write_below h (by omega) b
    · exact h

/-- Bytes placed one after the other are read back, and every other offset is as before. -/
theorem Memory.read_place (bs : List Byte) (m : Memory) (a x : Nat) :
    Memory.read (Memory.place m a bs) x = if a ≤ x ∧ x < a + bs.length then bs[x - a]? else Memory.read m x := by
  induction bs generalizing m a with
  | nil =>
    have h : ¬ (a ≤ x ∧ x < a + ([] : List Byte).length) := by simp
    rw [if_neg h]; rfl
  | cons b bs ih =>
    rw [Memory.place, ih]
    by_cases hin : a + 1 ≤ x ∧ x < a + 1 + bs.length
    · have h' : a ≤ x ∧ x < a + (b :: bs).length := by simp; omega
      have hi : x - a = (x - (a + 1)) + 1 := by omega
      rw [if_pos hin, if_pos h', hi, List.getElem?_cons_succ]
    · rw [if_neg hin, Memory.read_write]
      by_cases hx : x = a
      · subst hx; simp
      · have h' : ¬ (a ≤ x ∧ x < a + (b :: bs).length) := by simp only [List.length_cons]; omega
        rw [if_neg hx, if_neg h']

/-- Placing bytes keeps the canonical form. -/
theorem Memory.place_wf (bs : List Byte) {m : Memory} (h : Memory.wf m) (a : Nat) : Memory.wf (Memory.place m a bs) := by
  induction bs generalizing m a with
  | nil => exact h
  | cons b bs ih => exact ih (Memory.write_wf h a b) _

/-- The memory of a machine right after reset is in canonical form. -/
theorem State.reset_memory_wf : Memory.wf State.reset.imem ∧ Memory.wf State.reset.omem :=
  ⟨List.Pairwise.nil, List.Pairwise.nil⟩

end Sys2Proof.Machine
end

