-- ==== Sys2Proof/Laws/Operands.lean ====
section
/-! SUPPORT. What the operand forms do: a table entry after a write, the whole table's entries, a symbol's bytes. -/

namespace Sys2Proof.Machine

theorem isTableCode_iff (c : Byte) : isTableCode c = true ↔ c.toNat < Config.nCodes := by simp [isTableCode]

/-- Every code but 255 has a table entry (10 R24). -/
theorem isTableCode_iff_ne (c : Byte) : isTableCode c = true ↔ c ≠ 255#8 := by
  revert c; decide

/-- The entry of a table code is that of the register file at the code's index. -/
theorem entryAt_of_lt {α : Type} (file : Vector (Option α) Config.nCodes) {c : Byte} (h : c.toNat < Config.nCodes) :
    entryAt file c = file[c.toNat] := by
  simp [entryAt, h]

/-- There is no entry 255. -/
theorem entryAt_of_not_code {α : Type} (file : Vector (Option α) Config.nCodes) {c : Byte} (h : isTableCode c = false) :
    entryAt file c = none := by
  have h' : ¬ c.toNat < Config.nCodes := by simpa [isTableCode] using h
  simp [entryAt, h']

/-- The entries after one is written. -/
theorem entryAt_withEntry {α : Type} (file : Vector (Option α) Config.nCodes) (c d : Byte) (v : α) (h : isTableCode c = true) :
    entryAt (withEntry file c v) d = if d = c then some v else entryAt file d := by
  have hc := (isTableCode_iff c).1 h
  unfold entryAt withEntry
  by_cases hd : d = c
  · subst hd
    simp [hc]
  · have hn : c.toNat ≠ d.toNat := fun e => hd (BitVec.eq_of_toNat_eq e.symm)
    rw [Vector.getElem?_setIfInBounds_ne hn, if_neg hd]

/-- The entries of a whole table. -/
theorem entryAt_fullFile {α : Type} (vs : Vector α Config.nCodes) (c : Byte) : entryAt (fullFile vs) c = vs[c.toNat]? := by
  unfold entryAt fullFile
  by_cases h : c.toNat < Config.nCodes
  · simp [h]
  · simp [h]

theorem getElem_fullFile {α : Type} (vs : Vector α Config.nCodes) (i : Nat) (h : i < Config.nCodes) :
    (fullFile vs)[i] = some vs[i] := by
  simp [fullFile]

@[simp] theorem symbolBytes_length (w : SymWord) (n : Nat) : (symbolBytes w n).length = n := by simp [symbolBytes]

/-- Byte `j` of a symbol. -/
theorem symbolBytes_getElem? (w : SymWord) (n j : Nat) : (symbolBytes w n)[j]? = if j < n then some (byteOf w j) else none := by
  by_cases h : j < n <;> simp [symbolBytes, h]

end Sys2Proof.Machine
end

