-- ==== Sys2Proof/Laws/State.lean ====
section
/-! SUPPORT. What each update of the state does to each field, so that no later proof unfolds a record update. -/

namespace Sys2Proof.Machine

/-! ### State.faulted -/

@[simp] theorem State.faulted_zt (c : Cause) (s : State) : (s.faulted c).zt = s.zt := rfl
@[simp] theorem State.faulted_len (c : Cause) (s : State) : (s.faulted c).len = s.len := rfl
@[simp] theorem State.faulted_sym (c : Cause) (s : State) : (s.faulted c).sym = s.sym := rfl
@[simp] theorem State.faulted_inLen (c : Cause) (s : State) : (s.faulted c).inLen = s.inLen := rfl
@[simp] theorem State.faulted_outSize (c : Cause) (s : State) : (s.faulted c).outSize = s.outSize := rfl
@[simp] theorem State.faulted_posIn (c : Cause) (s : State) : (s.faulted c).posIn = s.posIn := rfl
@[simp] theorem State.faulted_posOut (c : Cause) (s : State) : (s.faulted c).posOut = s.posOut := rfl
@[simp] theorem State.faulted_result (c : Cause) (s : State) : (s.faulted c).result = s.result := rfl
@[simp] theorem State.faulted_status (c : Cause) (s : State) : (s.faulted c).status = Status.fault := rfl
@[simp] theorem State.faulted_cause (c : Cause) (s : State) : (s.faulted c).cause = c.code := rfl
@[simp] theorem State.faulted_imem (c : Cause) (s : State) : (s.faulted c).imem = s.imem := rfl
@[simp] theorem State.faulted_omem (c : Cause) (s : State) : (s.faulted c).omem = s.omem := rfl
@[simp] theorem State.faulted_params (c : Cause) (s : State) : (s.faulted c).params = s.params := rfl
@[simp] theorem State.faulted_turns (c : Cause) (s : State) : (s.faulted c).turns = s.turns := rfl
@[simp] theorem State.faulted_answer (c : Cause) (s : State) : (s.faulted c).answer = s.answer := rfl
@[simp] theorem State.faulted_draws (c : Cause) (s : State) : (s.faulted c).draws = s.draws := rfl

/-! ### State.setZt -/

@[simp] theorem State.setZt_zt (v : Bool) (s : State) : (s.setZt v).zt = some v := rfl
@[simp] theorem State.setZt_len (v : Bool) (s : State) : (s.setZt v).len = s.len := rfl
@[simp] theorem State.setZt_sym (v : Bool) (s : State) : (s.setZt v).sym = s.sym := rfl
@[simp] theorem State.setZt_inLen (v : Bool) (s : State) : (s.setZt v).inLen = s.inLen := rfl
@[simp] theorem State.setZt_outSize (v : Bool) (s : State) : (s.setZt v).outSize = s.outSize := rfl
@[simp] theorem State.setZt_posIn (v : Bool) (s : State) : (s.setZt v).posIn = s.posIn := rfl
@[simp] theorem State.setZt_posOut (v : Bool) (s : State) : (s.setZt v).posOut = s.posOut := rfl
@[simp] theorem State.setZt_result (v : Bool) (s : State) : (s.setZt v).result = s.result := rfl
@[simp] theorem State.setZt_status (v : Bool) (s : State) : (s.setZt v).status = s.status := rfl
@[simp] theorem State.setZt_cause (v : Bool) (s : State) : (s.setZt v).cause = s.cause := rfl
@[simp] theorem State.setZt_imem (v : Bool) (s : State) : (s.setZt v).imem = s.imem := rfl
@[simp] theorem State.setZt_omem (v : Bool) (s : State) : (s.setZt v).omem = s.omem := rfl
@[simp] theorem State.setZt_params (v : Bool) (s : State) : (s.setZt v).params = s.params := rfl
@[simp] theorem State.setZt_turns (v : Bool) (s : State) : (s.setZt v).turns = s.turns := rfl
@[simp] theorem State.setZt_answer (v : Bool) (s : State) : (s.setZt v).answer = s.answer := rfl
@[simp] theorem State.setZt_draws (v : Bool) (s : State) : (s.setZt v).draws = s.draws := rfl

/-! ### State.setLen -/

@[simp] theorem State.setLen_zt (c v : Byte) (s : State) : (s.setLen c v).zt = s.zt := rfl
@[simp] theorem State.setLen_len (c v : Byte) (s : State) : (s.setLen c v).len = withEntry s.len c v := rfl
@[simp] theorem State.setLen_sym (c v : Byte) (s : State) : (s.setLen c v).sym = s.sym := rfl
@[simp] theorem State.setLen_inLen (c v : Byte) (s : State) : (s.setLen c v).inLen = s.inLen := rfl
@[simp] theorem State.setLen_outSize (c v : Byte) (s : State) : (s.setLen c v).outSize = s.outSize := rfl
@[simp] theorem State.setLen_posIn (c v : Byte) (s : State) : (s.setLen c v).posIn = s.posIn := rfl
@[simp] theorem State.setLen_posOut (c v : Byte) (s : State) : (s.setLen c v).posOut = s.posOut := rfl
@[simp] theorem State.setLen_result (c v : Byte) (s : State) : (s.setLen c v).result = s.result := rfl
@[simp] theorem State.setLen_status (c v : Byte) (s : State) : (s.setLen c v).status = s.status := rfl
@[simp] theorem State.setLen_cause (c v : Byte) (s : State) : (s.setLen c v).cause = s.cause := rfl
@[simp] theorem State.setLen_imem (c v : Byte) (s : State) : (s.setLen c v).imem = s.imem := rfl
@[simp] theorem State.setLen_omem (c v : Byte) (s : State) : (s.setLen c v).omem = s.omem := rfl
@[simp] theorem State.setLen_params (c v : Byte) (s : State) : (s.setLen c v).params = s.params := rfl
@[simp] theorem State.setLen_turns (c v : Byte) (s : State) : (s.setLen c v).turns = s.turns := rfl
@[simp] theorem State.setLen_answer (c v : Byte) (s : State) : (s.setLen c v).answer = s.answer := rfl
@[simp] theorem State.setLen_draws (c v : Byte) (s : State) : (s.setLen c v).draws = s.draws := rfl

/-! ### State.setSym -/

@[simp] theorem State.setSym_zt (c : Byte) (w : SymWord) (s : State) : (s.setSym c w).zt = s.zt := rfl
@[simp] theorem State.setSym_len (c : Byte) (w : SymWord) (s : State) : (s.setSym c w).len = s.len := rfl
@[simp] theorem State.setSym_sym (c : Byte) (w : SymWord) (s : State) : (s.setSym c w).sym = withEntry s.sym c w := rfl
@[simp] theorem State.setSym_inLen (c : Byte) (w : SymWord) (s : State) : (s.setSym c w).inLen = s.inLen := rfl
@[simp] theorem State.setSym_outSize (c : Byte) (w : SymWord) (s : State) : (s.setSym c w).outSize = s.outSize := rfl
@[simp] theorem State.setSym_posIn (c : Byte) (w : SymWord) (s : State) : (s.setSym c w).posIn = s.posIn := rfl
@[simp] theorem State.setSym_posOut (c : Byte) (w : SymWord) (s : State) : (s.setSym c w).posOut = s.posOut := rfl
@[simp] theorem State.setSym_result (c : Byte) (w : SymWord) (s : State) : (s.setSym c w).result = s.result := rfl
@[simp] theorem State.setSym_status (c : Byte) (w : SymWord) (s : State) : (s.setSym c w).status = s.status := rfl
@[simp] theorem State.setSym_cause (c : Byte) (w : SymWord) (s : State) : (s.setSym c w).cause = s.cause := rfl
@[simp] theorem State.setSym_imem (c : Byte) (w : SymWord) (s : State) : (s.setSym c w).imem = s.imem := rfl
@[simp] theorem State.setSym_omem (c : Byte) (w : SymWord) (s : State) : (s.setSym c w).omem = s.omem := rfl
@[simp] theorem State.setSym_params (c : Byte) (w : SymWord) (s : State) : (s.setSym c w).params = s.params := rfl
@[simp] theorem State.setSym_turns (c : Byte) (w : SymWord) (s : State) : (s.setSym c w).turns = s.turns := rfl
@[simp] theorem State.setSym_answer (c : Byte) (w : SymWord) (s : State) : (s.setSym c w).answer = s.answer := rfl
@[simp] theorem State.setSym_draws (c : Byte) (w : SymWord) (s : State) : (s.setSym c w).draws = s.draws := rfl

/-! ### State.setTable -/

@[simp] theorem State.setTable_zt (z : Bool) (ls : Vector Byte Config.nCodes) (ws : Vector SymWord Config.nCodes) (s : State) : (s.setTable z ls ws).zt = some z := rfl
@[simp] theorem State.setTable_len (z : Bool) (ls : Vector Byte Config.nCodes) (ws : Vector SymWord Config.nCodes) (s : State) : (s.setTable z ls ws).len = fullFile ls := rfl
@[simp] theorem State.setTable_sym (z : Bool) (ls : Vector Byte Config.nCodes) (ws : Vector SymWord Config.nCodes) (s : State) : (s.setTable z ls ws).sym = fullFile ws := rfl
@[simp] theorem State.setTable_inLen (z : Bool) (ls : Vector Byte Config.nCodes) (ws : Vector SymWord Config.nCodes) (s : State) : (s.setTable z ls ws).inLen = s.inLen := rfl
@[simp] theorem State.setTable_outSize (z : Bool) (ls : Vector Byte Config.nCodes) (ws : Vector SymWord Config.nCodes) (s : State) : (s.setTable z ls ws).outSize = s.outSize := rfl
@[simp] theorem State.setTable_posIn (z : Bool) (ls : Vector Byte Config.nCodes) (ws : Vector SymWord Config.nCodes) (s : State) : (s.setTable z ls ws).posIn = s.posIn := rfl
@[simp] theorem State.setTable_posOut (z : Bool) (ls : Vector Byte Config.nCodes) (ws : Vector SymWord Config.nCodes) (s : State) : (s.setTable z ls ws).posOut = s.posOut := rfl
@[simp] theorem State.setTable_result (z : Bool) (ls : Vector Byte Config.nCodes) (ws : Vector SymWord Config.nCodes) (s : State) : (s.setTable z ls ws).result = s.result := rfl
@[simp] theorem State.setTable_status (z : Bool) (ls : Vector Byte Config.nCodes) (ws : Vector SymWord Config.nCodes) (s : State) : (s.setTable z ls ws).status = s.status := rfl
@[simp] theorem State.setTable_cause (z : Bool) (ls : Vector Byte Config.nCodes) (ws : Vector SymWord Config.nCodes) (s : State) : (s.setTable z ls ws).cause = s.cause := rfl
@[simp] theorem State.setTable_imem (z : Bool) (ls : Vector Byte Config.nCodes) (ws : Vector SymWord Config.nCodes) (s : State) : (s.setTable z ls ws).imem = s.imem := rfl
@[simp] theorem State.setTable_omem (z : Bool) (ls : Vector Byte Config.nCodes) (ws : Vector SymWord Config.nCodes) (s : State) : (s.setTable z ls ws).omem = s.omem := rfl
@[simp] theorem State.setTable_params (z : Bool) (ls : Vector Byte Config.nCodes) (ws : Vector SymWord Config.nCodes) (s : State) : (s.setTable z ls ws).params = s.params := rfl
@[simp] theorem State.setTable_turns (z : Bool) (ls : Vector Byte Config.nCodes) (ws : Vector SymWord Config.nCodes) (s : State) : (s.setTable z ls ws).turns = s.turns := rfl
@[simp] theorem State.setTable_answer (z : Bool) (ls : Vector Byte Config.nCodes) (ws : Vector SymWord Config.nCodes) (s : State) : (s.setTable z ls ws).answer = s.answer := rfl
@[simp] theorem State.setTable_draws (z : Bool) (ls : Vector Byte Config.nCodes) (ws : Vector SymWord Config.nCodes) (s : State) : (s.setTable z ls ws).draws = s.draws := rfl

/-! ### State.setIn -/

@[simp] theorem State.setIn_zt (a : Nat) (b : Byte) (s : State) : (s.setIn a b).zt = s.zt := rfl
@[simp] theorem State.setIn_len (a : Nat) (b : Byte) (s : State) : (s.setIn a b).len = s.len := rfl
@[simp] theorem State.setIn_sym (a : Nat) (b : Byte) (s : State) : (s.setIn a b).sym = s.sym := rfl
@[simp] theorem State.setIn_inLen (a : Nat) (b : Byte) (s : State) : (s.setIn a b).inLen = s.inLen := rfl
@[simp] theorem State.setIn_outSize (a : Nat) (b : Byte) (s : State) : (s.setIn a b).outSize = s.outSize := rfl
@[simp] theorem State.setIn_posIn (a : Nat) (b : Byte) (s : State) : (s.setIn a b).posIn = s.posIn := rfl
@[simp] theorem State.setIn_posOut (a : Nat) (b : Byte) (s : State) : (s.setIn a b).posOut = s.posOut := rfl
@[simp] theorem State.setIn_result (a : Nat) (b : Byte) (s : State) : (s.setIn a b).result = s.result := rfl
@[simp] theorem State.setIn_status (a : Nat) (b : Byte) (s : State) : (s.setIn a b).status = s.status := rfl
@[simp] theorem State.setIn_cause (a : Nat) (b : Byte) (s : State) : (s.setIn a b).cause = s.cause := rfl
@[simp] theorem State.setIn_imem (a : Nat) (b : Byte) (s : State) : (s.setIn a b).imem = Memory.write s.imem a b := rfl
@[simp] theorem State.setIn_omem (a : Nat) (b : Byte) (s : State) : (s.setIn a b).omem = s.omem := rfl
@[simp] theorem State.setIn_params (a : Nat) (b : Byte) (s : State) : (s.setIn a b).params = s.params := rfl
@[simp] theorem State.setIn_turns (a : Nat) (b : Byte) (s : State) : (s.setIn a b).turns = s.turns := rfl
@[simp] theorem State.setIn_answer (a : Nat) (b : Byte) (s : State) : (s.setIn a b).answer = s.answer := rfl
@[simp] theorem State.setIn_draws (a : Nat) (b : Byte) (s : State) : (s.setIn a b).draws = s.draws := rfl

/-! ### State.setOut -/

@[simp] theorem State.setOut_zt (a : Nat) (b : Byte) (s : State) : (s.setOut a b).zt = s.zt := rfl
@[simp] theorem State.setOut_len (a : Nat) (b : Byte) (s : State) : (s.setOut a b).len = s.len := rfl
@[simp] theorem State.setOut_sym (a : Nat) (b : Byte) (s : State) : (s.setOut a b).sym = s.sym := rfl
@[simp] theorem State.setOut_inLen (a : Nat) (b : Byte) (s : State) : (s.setOut a b).inLen = s.inLen := rfl
@[simp] theorem State.setOut_outSize (a : Nat) (b : Byte) (s : State) : (s.setOut a b).outSize = s.outSize := rfl
@[simp] theorem State.setOut_posIn (a : Nat) (b : Byte) (s : State) : (s.setOut a b).posIn = s.posIn := rfl
@[simp] theorem State.setOut_posOut (a : Nat) (b : Byte) (s : State) : (s.setOut a b).posOut = s.posOut := rfl
@[simp] theorem State.setOut_result (a : Nat) (b : Byte) (s : State) : (s.setOut a b).result = s.result := rfl
@[simp] theorem State.setOut_status (a : Nat) (b : Byte) (s : State) : (s.setOut a b).status = s.status := rfl
@[simp] theorem State.setOut_cause (a : Nat) (b : Byte) (s : State) : (s.setOut a b).cause = s.cause := rfl
@[simp] theorem State.setOut_imem (a : Nat) (b : Byte) (s : State) : (s.setOut a b).imem = s.imem := rfl
@[simp] theorem State.setOut_omem (a : Nat) (b : Byte) (s : State) : (s.setOut a b).omem = Memory.write s.omem a b := rfl
@[simp] theorem State.setOut_params (a : Nat) (b : Byte) (s : State) : (s.setOut a b).params = s.params := rfl
@[simp] theorem State.setOut_turns (a : Nat) (b : Byte) (s : State) : (s.setOut a b).turns = s.turns := rfl
@[simp] theorem State.setOut_answer (a : Nat) (b : Byte) (s : State) : (s.setOut a b).answer = s.answer := rfl
@[simp] theorem State.setOut_draws (a : Nat) (b : Byte) (s : State) : (s.setOut a b).draws = s.draws := rfl

/-! ### State.begun -/

@[simp] theorem State.begun_zt (m n : Nat) (s : State) : (s.begun m n).zt = s.zt := rfl
@[simp] theorem State.begun_len (m n : Nat) (s : State) : (s.begun m n).len = s.len := rfl
@[simp] theorem State.begun_sym (m n : Nat) (s : State) : (s.begun m n).sym = s.sym := rfl
@[simp] theorem State.begun_inLen (m n : Nat) (s : State) : (s.begun m n).inLen = m := rfl
@[simp] theorem State.begun_outSize (m n : Nat) (s : State) : (s.begun m n).outSize = n := rfl
@[simp] theorem State.begun_posIn (m n : Nat) (s : State) : (s.begun m n).posIn = 0 := rfl
@[simp] theorem State.begun_posOut (m n : Nat) (s : State) : (s.begun m n).posOut = 0 := rfl
@[simp] theorem State.begun_result (m n : Nat) (s : State) : (s.begun m n).result = s.result := rfl
@[simp] theorem State.begun_status (m n : Nat) (s : State) : (s.begun m n).status = Status.run := rfl
@[simp] theorem State.begun_cause (m n : Nat) (s : State) : (s.begun m n).cause = s.cause := rfl
@[simp] theorem State.begun_imem (m n : Nat) (s : State) : (s.begun m n).imem = s.imem := rfl
@[simp] theorem State.begun_omem (m n : Nat) (s : State) : (s.begun m n).omem = s.omem := rfl
@[simp] theorem State.begun_params (m n : Nat) (s : State) : (s.begun m n).params = s.params := rfl
@[simp] theorem State.begun_turns (m n : Nat) (s : State) : (s.begun m n).turns = s.turns := rfl
@[simp] theorem State.begun_answer (m n : Nat) (s : State) : (s.begun m n).answer = s.answer := rfl
@[simp] theorem State.begun_draws (m n : Nat) (s : State) : (s.begun m n).draws = s.draws := rfl

/-! ### State.emitted -/

@[simp] theorem State.emitted_zt (bs : List Byte) (k : Nat) (s : State) : (s.emitted bs k).zt = s.zt := rfl
@[simp] theorem State.emitted_len (bs : List Byte) (k : Nat) (s : State) : (s.emitted bs k).len = s.len := rfl
@[simp] theorem State.emitted_sym (bs : List Byte) (k : Nat) (s : State) : (s.emitted bs k).sym = s.sym := rfl
@[simp] theorem State.emitted_inLen (bs : List Byte) (k : Nat) (s : State) : (s.emitted bs k).inLen = s.inLen := rfl
@[simp] theorem State.emitted_outSize (bs : List Byte) (k : Nat) (s : State) : (s.emitted bs k).outSize = s.outSize := rfl
@[simp] theorem State.emitted_posIn (bs : List Byte) (k : Nat) (s : State) : (s.emitted bs k).posIn = s.posIn + k := rfl
@[simp] theorem State.emitted_posOut (bs : List Byte) (k : Nat) (s : State) : (s.emitted bs k).posOut = s.posOut + bs.length := rfl
@[simp] theorem State.emitted_result (bs : List Byte) (k : Nat) (s : State) : (s.emitted bs k).result = s.result := rfl
@[simp] theorem State.emitted_status (bs : List Byte) (k : Nat) (s : State) : (s.emitted bs k).status = s.status := rfl
@[simp] theorem State.emitted_cause (bs : List Byte) (k : Nat) (s : State) : (s.emitted bs k).cause = s.cause := rfl
@[simp] theorem State.emitted_imem (bs : List Byte) (k : Nat) (s : State) : (s.emitted bs k).imem = s.imem := rfl
@[simp] theorem State.emitted_omem (bs : List Byte) (k : Nat) (s : State) : (s.emitted bs k).omem = Memory.emit s.outSize s.omem s.posOut bs := rfl
@[simp] theorem State.emitted_params (bs : List Byte) (k : Nat) (s : State) : (s.emitted bs k).params = s.params := rfl
@[simp] theorem State.emitted_turns (bs : List Byte) (k : Nat) (s : State) : (s.emitted bs k).turns = s.turns := rfl
@[simp] theorem State.emitted_answer (bs : List Byte) (k : Nat) (s : State) : (s.emitted bs k).answer = s.answer := rfl
@[simp] theorem State.emitted_draws (bs : List Byte) (k : Nat) (s : State) : (s.emitted bs k).draws = s.draws := rfl

/-! ### State.finished -/

@[simp] theorem State.finished_zt (s : State) : s.finished.zt = s.zt := rfl
@[simp] theorem State.finished_len (s : State) : s.finished.len = s.len := rfl
@[simp] theorem State.finished_sym (s : State) : s.finished.sym = s.sym := rfl
@[simp] theorem State.finished_inLen (s : State) : s.finished.inLen = s.inLen := rfl
@[simp] theorem State.finished_outSize (s : State) : s.finished.outSize = s.outSize := rfl
@[simp] theorem State.finished_posIn (s : State) : s.finished.posIn = s.posIn := rfl
@[simp] theorem State.finished_posOut (s : State) : s.finished.posOut = s.posOut := rfl
@[simp] theorem State.finished_result (s : State) : s.finished.result = s.posOut := rfl
@[simp] theorem State.finished_status (s : State) : s.finished.status = Status.done := rfl
@[simp] theorem State.finished_cause (s : State) : s.finished.cause = s.cause := rfl
@[simp] theorem State.finished_imem (s : State) : s.finished.imem = s.imem := rfl
@[simp] theorem State.finished_omem (s : State) : s.finished.omem = s.omem := rfl
@[simp] theorem State.finished_params (s : State) : s.finished.params = s.params := rfl
@[simp] theorem State.finished_turns (s : State) : s.finished.turns = s.turns := rfl
@[simp] theorem State.finished_answer (s : State) : s.finished.answer = s.answer := rfl
@[simp] theorem State.finished_draws (s : State) : s.finished.draws = s.draws := rfl

/-! ### State.withTurns -/

@[simp] theorem State.withTurns_zt (ts : List Turn) (s : State) : (s.withTurns ts).zt = s.zt := rfl
@[simp] theorem State.withTurns_len (ts : List Turn) (s : State) : (s.withTurns ts).len = s.len := rfl
@[simp] theorem State.withTurns_sym (ts : List Turn) (s : State) : (s.withTurns ts).sym = s.sym := rfl
@[simp] theorem State.withTurns_inLen (ts : List Turn) (s : State) : (s.withTurns ts).inLen = s.inLen := rfl
@[simp] theorem State.withTurns_outSize (ts : List Turn) (s : State) : (s.withTurns ts).outSize = s.outSize := rfl
@[simp] theorem State.withTurns_posIn (ts : List Turn) (s : State) : (s.withTurns ts).posIn = s.posIn := rfl
@[simp] theorem State.withTurns_posOut (ts : List Turn) (s : State) : (s.withTurns ts).posOut = s.posOut := rfl
@[simp] theorem State.withTurns_result (ts : List Turn) (s : State) : (s.withTurns ts).result = s.result := rfl
@[simp] theorem State.withTurns_status (ts : List Turn) (s : State) : (s.withTurns ts).status = s.status := rfl
@[simp] theorem State.withTurns_cause (ts : List Turn) (s : State) : (s.withTurns ts).cause = s.cause := rfl
@[simp] theorem State.withTurns_imem (ts : List Turn) (s : State) : (s.withTurns ts).imem = s.imem := rfl
@[simp] theorem State.withTurns_omem (ts : List Turn) (s : State) : (s.withTurns ts).omem = s.omem := rfl
@[simp] theorem State.withTurns_params (ts : List Turn) (s : State) : (s.withTurns ts).params = s.params := rfl
@[simp] theorem State.withTurns_turns (ts : List Turn) (s : State) : (s.withTurns ts).turns = ts := rfl
@[simp] theorem State.withTurns_answer (ts : List Turn) (s : State) : (s.withTurns ts).answer = s.answer := rfl
@[simp] theorem State.withTurns_draws (ts : List Turn) (s : State) : (s.withTurns ts).draws = s.draws := rfl

/-! ### State.drawn -/

@[simp] theorem State.drawn_zt (s : State) : s.drawn.zt = s.zt := rfl
@[simp] theorem State.drawn_len (s : State) : s.drawn.len = s.len := rfl
@[simp] theorem State.drawn_sym (s : State) : s.drawn.sym = s.sym := rfl
@[simp] theorem State.drawn_inLen (s : State) : s.drawn.inLen = s.inLen := rfl
@[simp] theorem State.drawn_outSize (s : State) : s.drawn.outSize = s.outSize := rfl
@[simp] theorem State.drawn_posIn (s : State) : s.drawn.posIn = s.posIn := rfl
@[simp] theorem State.drawn_posOut (s : State) : s.drawn.posOut = s.posOut := rfl
@[simp] theorem State.drawn_result (s : State) : s.drawn.result = s.result := rfl
@[simp] theorem State.drawn_status (s : State) : s.drawn.status = s.status := rfl
@[simp] theorem State.drawn_cause (s : State) : s.drawn.cause = s.cause := rfl
@[simp] theorem State.drawn_imem (s : State) : s.drawn.imem = s.imem := rfl
@[simp] theorem State.drawn_omem (s : State) : s.drawn.omem = s.omem := rfl
@[simp] theorem State.drawn_params (s : State) : s.drawn.params = s.params := rfl
@[simp] theorem State.drawn_turns (s : State) : s.drawn.turns = s.turns := rfl
@[simp] theorem State.drawn_answer (s : State) : s.drawn.answer = s.answer := rfl
@[simp] theorem State.drawn_draws (s : State) : s.drawn.draws = s.draws + 1 := rfl

/-! ### State.restored -/

@[simp] theorem State.restored_zt (s : State) : s.restored.zt = none := rfl
@[simp] theorem State.restored_len (s : State) : s.restored.len = Vector.replicate Config.nCodes none := rfl
@[simp] theorem State.restored_sym (s : State) : s.restored.sym = Vector.replicate Config.nCodes none := rfl
@[simp] theorem State.restored_inLen (s : State) : s.restored.inLen = 0 := rfl
@[simp] theorem State.restored_outSize (s : State) : s.restored.outSize = 0 := rfl
@[simp] theorem State.restored_posIn (s : State) : s.restored.posIn = 0 := rfl
@[simp] theorem State.restored_posOut (s : State) : s.restored.posOut = 0 := rfl
@[simp] theorem State.restored_result (s : State) : s.restored.result = 0 := rfl
@[simp] theorem State.restored_status (s : State) : s.restored.status = Status.idle := rfl
@[simp] theorem State.restored_cause (s : State) : s.restored.cause = 0#4 := rfl
@[simp] theorem State.restored_imem (s : State) : s.restored.imem = [] := rfl
@[simp] theorem State.restored_omem (s : State) : s.restored.omem = [] := rfl
@[simp] theorem State.restored_params (s : State) : s.restored.params = s.params := rfl
@[simp] theorem State.restored_turns (s : State) : s.restored.turns = s.turns := rfl
@[simp] theorem State.restored_answer (s : State) : s.restored.answer = s.answer := rfl
@[simp] theorem State.restored_draws (s : State) : s.restored.draws = s.draws := rfl

/-! ### State.afterZtRead and State.answered, which change what the host holds and the draws alone -/

@[simp] theorem State.afterZtRead_zt (s : State) : s.afterZtRead.zt = s.zt := by
  unfold State.afterZtRead; split <;> rfl
@[simp] theorem State.afterZtRead_len (s : State) : s.afterZtRead.len = s.len := by
  unfold State.afterZtRead; split <;> rfl
@[simp] theorem State.afterZtRead_sym (s : State) : s.afterZtRead.sym = s.sym := by
  unfold State.afterZtRead; split <;> rfl
@[simp] theorem State.afterZtRead_inLen (s : State) : s.afterZtRead.inLen = s.inLen := by
  unfold State.afterZtRead; split <;> rfl
@[simp] theorem State.afterZtRead_outSize (s : State) : s.afterZtRead.outSize = s.outSize := by
  unfold State.afterZtRead; split <;> rfl
@[simp] theorem State.afterZtRead_posIn (s : State) : s.afterZtRead.posIn = s.posIn := by
  unfold State.afterZtRead; split <;> rfl
@[simp] theorem State.afterZtRead_posOut (s : State) : s.afterZtRead.posOut = s.posOut := by
  unfold State.afterZtRead; split <;> rfl
@[simp] theorem State.afterZtRead_result (s : State) : s.afterZtRead.result = s.result := by
  unfold State.afterZtRead; split <;> rfl
@[simp] theorem State.afterZtRead_status (s : State) : s.afterZtRead.status = s.status := by
  unfold State.afterZtRead; split <;> rfl
@[simp] theorem State.afterZtRead_cause (s : State) : s.afterZtRead.cause = s.cause := by
  unfold State.afterZtRead; split <;> rfl
@[simp] theorem State.afterZtRead_imem (s : State) : s.afterZtRead.imem = s.imem := by
  unfold State.afterZtRead; split <;> rfl
@[simp] theorem State.afterZtRead_omem (s : State) : s.afterZtRead.omem = s.omem := by
  unfold State.afterZtRead; split <;> rfl
@[simp] theorem State.afterZtRead_params (s : State) : s.afterZtRead.params = s.params := by
  unfold State.afterZtRead; split <;> rfl
@[simp] theorem State.afterZtRead_turns (s : State) : s.afterZtRead.turns = s.turns := by
  unfold State.afterZtRead; split <;> rfl
@[simp] theorem State.afterZtRead_answer (s : State) : s.afterZtRead.answer = s.answer := by
  unfold State.afterZtRead; split <;> rfl
@[simp] theorem State.answered_zt (v : Option HostValue) (any : Nat → HostValue) (s : State) :
    (s.answered v any).zt = s.zt := by
  unfold State.answered; split <;> rfl
@[simp] theorem State.answered_len (v : Option HostValue) (any : Nat → HostValue) (s : State) :
    (s.answered v any).len = s.len := by
  unfold State.answered; split <;> rfl
@[simp] theorem State.answered_sym (v : Option HostValue) (any : Nat → HostValue) (s : State) :
    (s.answered v any).sym = s.sym := by
  unfold State.answered; split <;> rfl
@[simp] theorem State.answered_inLen (v : Option HostValue) (any : Nat → HostValue) (s : State) :
    (s.answered v any).inLen = s.inLen := by
  unfold State.answered; split <;> rfl
@[simp] theorem State.answered_outSize (v : Option HostValue) (any : Nat → HostValue) (s : State) :
    (s.answered v any).outSize = s.outSize := by
  unfold State.answered; split <;> rfl
@[simp] theorem State.answered_posIn (v : Option HostValue) (any : Nat → HostValue) (s : State) :
    (s.answered v any).posIn = s.posIn := by
  unfold State.answered; split <;> rfl
@[simp] theorem State.answered_posOut (v : Option HostValue) (any : Nat → HostValue) (s : State) :
    (s.answered v any).posOut = s.posOut := by
  unfold State.answered; split <;> rfl
@[simp] theorem State.answered_result (v : Option HostValue) (any : Nat → HostValue) (s : State) :
    (s.answered v any).result = s.result := by
  unfold State.answered; split <;> rfl
@[simp] theorem State.answered_status (v : Option HostValue) (any : Nat → HostValue) (s : State) :
    (s.answered v any).status = s.status := by
  unfold State.answered; split <;> rfl
@[simp] theorem State.answered_cause (v : Option HostValue) (any : Nat → HostValue) (s : State) :
    (s.answered v any).cause = s.cause := by
  unfold State.answered; split <;> rfl
@[simp] theorem State.answered_imem (v : Option HostValue) (any : Nat → HostValue) (s : State) :
    (s.answered v any).imem = s.imem := by
  unfold State.answered; split <;> rfl
@[simp] theorem State.answered_omem (v : Option HostValue) (any : Nat → HostValue) (s : State) :
    (s.answered v any).omem = s.omem := by
  unfold State.answered; split <;> rfl
@[simp] theorem State.answered_params (v : Option HostValue) (any : Nat → HostValue) (s : State) :
    (s.answered v any).params = s.params := by
  unfold State.answered; split <;> rfl
@[simp] theorem State.answered_turns (v : Option HostValue) (any : Nat → HostValue) (s : State) :
    (s.answered v any).turns = s.turns := by
  unfold State.answered; split <;> rfl

theorem State.afterZtRead_of_written {s : State} {v : Bool} (h : s.zt = some v) : s.afterZtRead = s := by
  simp [State.afterZtRead, h]

@[simp] theorem State.answered_some (x : HostValue) (any : Nat → HostValue) (s : State) :
    s.answered (some x) any = { s with answer := some x } := rfl

@[simp] theorem State.answered_none (any : Nat → HostValue) (s : State) :
    s.answered none any = { s with answer := some (any s.draws), draws := s.draws + 1 } := rfl

/-- A read action's return changes only what the host holds and the draws taken. -/
theorem State.answered_eq (v : Option HostValue) (any : Nat → HostValue) (s : State) :
    ∃ x d, s.answered v any = { s with answer := some x, draws := d } := by
  cases v with
  | some x => exact ⟨x, s.draws, rfl⟩
  | none => exact ⟨any s.draws, s.draws + 1, rfl⟩

end Sys2Proof.Machine
end

