-- ==== Sys2Proof/Laws/Ops.lean ====
section
/-! SUPPORT. What each shared operation can answer, said once: raising a fault, the enabling of the engine's steps, the host's write
and read checks, and what the machine refuses. -/

namespace Sys2Proof.Machine

/-- Raising a fault answers the fault's state. -/
theorem raise_next {c : Cause} {s t : State} : raise c s = .next t ↔ t = s.faulted c := by
  unfold raise
  constructor
  · intro h; injection h with h; exact h.symm
  · intro h; rw [h]

/-- CAUSE's codes all lie below the reserved ones. -/
theorem Cause.code_lt (c : Cause) : c.code.toNat < firstReservedCause := by cases c <;> decide

theorem Cause.code_eq_zero (c : Cause) : c.code = Cause.none.code ↔ c = .none := by cases c <;> decide

/-- A unit's step that answers a next state was enabled, and answers what the unit answers. -/
theorem whenUnit_next {s t : State} {o : Answer} : whenUnit s o = .next t ↔
    (s.status = .run ∧ s.posIn ≠ s.inLen ∧ s.windowsFit) ∧ o = .next t := by
  unfold whenUnit
  constructor
  · intro h
    split at h
    · cases h
    · rename_i h1
      simp only [not_or, not_not] at h1
      split at h
      · cases h
      · rename_i h2
        exact ⟨⟨h1.1, h1.2, not_not.1 h2⟩, h⟩
  · rintro ⟨⟨h1, h2, h3⟩, h4⟩
    rw [if_neg (by simp [h1, h2]), if_neg (not_not.2 h3), h4]

/-- An enabled unit's step answers what the unit answers. -/
theorem whenUnit_ready {s : State} (h1 : s.status = .run) (h2 : s.posIn ≠ s.inLen) (h3 : s.windowsFit) (o : Answer) :
    whenUnit s o = o := by
  unfold whenUnit
  rw [if_neg (by simp [h1, h2]), if_neg (not_not.2 h3)]

/-- FIN's step that answers a next state was enabled, and answers what FIN answers. -/
theorem whenEnd_next {s t : State} {o : Answer} : whenEnd s o = .next t ↔
    (s.status = .run ∧ s.posIn = s.inLen ∧ s.windowsFit) ∧ o = .next t := by
  unfold whenEnd
  constructor
  · intro h
    split at h
    · cases h
    · rename_i h1
      simp only [not_or, not_not] at h1
      split at h
      · cases h
      · rename_i h2
        exact ⟨⟨h1.1, h1.2, not_not.1 h2⟩, h⟩
  · rintro ⟨⟨h1, h2, h3⟩, h4⟩
    rw [if_neg (by simp [h1, h2]), if_neg (not_not.2 h3), h4]

/-- An enabled FIN answers what FIN answers. -/
theorem whenEnd_ready {s : State} (h1 : s.status = .run) (h2 : s.posIn = s.inLen) (h3 : s.windowsFit) (o : Answer) :
    whenEnd s o = o := by
  unfold whenEnd
  rw [if_neg (by simp [h1, h2]), if_neg (not_not.2 h3)]

/-- No engine step is enabled outside RUN (40 R100). -/
theorem whenUnit_not_running {s : State} (h : s.status ≠ .run) (o : Answer) : whenUnit s o = .fault .noMove := by
  unfold whenUnit; rw [if_pos (.inl h)]

theorem whenEnd_not_running {s : State} (h : s.status ≠ .run) (o : Answer) : whenEnd s o = .fault .noMove := by
  unfold whenEnd; rw [if_pos (.inl h)]

/-- A write action always answers a next state: unchanged in FAULT, a fault's state, or the state after the write. -/
theorem hostWrite_cases (ok : Bool) (busy : Cause) (s t : State) :
    (s.status = .fault ∧ hostWrite ok busy s t = .next s) ∨
    (s.status ≠ .fault ∧ ok = false ∧ hostWrite ok busy s t = .next (s.faulted .badHostOperand)) ∨
    (s.status = .run ∧ ok = true ∧ hostWrite ok busy s t = .next (s.faulted busy)) ∨
    (s.status ≠ .fault ∧ s.status ≠ .run ∧ ok = true ∧ hostWrite ok busy s t = .next t) := by
  unfold hostWrite raise
  by_cases h1 : s.status = .fault
  · exact .inl ⟨h1, by rw [if_pos h1]⟩
  · cases ok with
    | false => exact .inr (.inl ⟨h1, rfl, by rw [if_neg h1, if_pos rfl]⟩)
    | true =>
      by_cases h2 : s.status = .run
      · exact .inr (.inr (.inl ⟨h2, rfl, by simp [h2]⟩))
      · exact .inr (.inr (.inr ⟨h1, h2, rfl, by simp [h1, h2]⟩))

/-- A read action always answers a next state: the return, or in place of an operand out of range a fault's state, or any value in
FAULT. -/
theorem hostRead_cases (ok : Bool) (v : Option HostValue) (any : Nat → HostValue) (s : State) :
    (ok = true ∧ hostRead ok v any s = .next (s.answered v any)) ∨
    (ok = false ∧ s.status = .fault ∧ hostRead ok v any s = .next (s.answered none any)) ∨
    (ok = false ∧ s.status ≠ .fault ∧ hostRead ok v any s = .next (s.faulted .badHostOperand)) := by
  unfold hostRead raise
  cases ok with
  | true => exact .inl ⟨rfl, by rw [if_pos rfl]⟩
  | false =>
    by_cases h : s.status = .fault
    · exact .inr (.inl ⟨rfl, h, by simp [h]⟩)
    · exact .inr (.inr ⟨rfl, h, by simp [h]⟩)

theorem hostWrite_next {ok : Bool} {busy : Cause} {s t u : State} (h : hostWrite ok busy s t = .next u) :
    (s.status = .fault ∧ u = s) ∨ (s.status ≠ .fault ∧ ok = false ∧ u = s.faulted .badHostOperand) ∨
    (s.status = .run ∧ ok = true ∧ u = s.faulted busy) ∨ (s.status ≠ .fault ∧ s.status ≠ .run ∧ ok = true ∧ u = t) := by
  rcases hostWrite_cases ok busy s t with ⟨a, e⟩ | ⟨a, b, e⟩ | ⟨a, b, e⟩ | ⟨a, b, c, e⟩ <;>
    rw [e] at h <;> injection h with h <;> subst h <;> simp_all

theorem hostRead_next {ok : Bool} {v : Option HostValue} {any : Nat → HostValue} {s u : State}
    (h : hostRead ok v any s = .next u) :
    (ok = true ∧ u = s.answered v any) ∨ (ok = false ∧ s.status = .fault ∧ u = s.answered none any) ∨
    (ok = false ∧ s.status ≠ .fault ∧ u = s.faulted .badHostOperand) := by
  rcases hostRead_cases ok v any s with ⟨a, e⟩ | ⟨a, b, e⟩ | ⟨a, b, e⟩ <;>
    rw [e] at h <;> injection h with h <;> subst h <;> simp_all

/-- The machine refuses nothing exactly when the parameters are legal, the binding is the one the rules are written for, and CAUSE
holds no reserved code. -/
theorem outsideSpec_none (s : State) : outsideSpec s = none ↔
    s.params.wellFormed = true ∧ s.params.binding = .atomicDisjoint ∧ s.cause.toNat < firstReservedCause := by
  unfold outsideSpec
  cases hw : s.params.wellFormed <;> cases hb : s.params.binding <;> simp

/-- What a fault leaves: every field but STATE and CAUSE (00 R13). -/
theorem State.faulted_eq (c : Cause) (s : State) : s.faulted c = { s with status := .fault, cause := c.code } := rfl

end Sys2Proof.Machine
end

