-- ==== Sys2Proof/Laws/Exec.lean ====
section
/-! SUPPORT. What each instruction can answer: one lemma per meaning, "if it answers `next t`, then one of these". -/

namespace Sys2Proof.Machine

/-- An enabled SYM's effect, or one of its two faults (40 R102). -/
theorem execSym_next {code : Fin Config.nCodes} {s t : State} (h : execSym code s = .next t) :
    (s.status = .run ∧ s.posIn ≠ s.inLen ∧ s.windowsFit) ∧
    ((∃ n w, s.len[code.val] = some n ∧ s.sym[code.val] = some w ∧ 1 ≤ n.toNat ∧ n.toNat ≤ 8 ∧
        t = s.emitted (symbolBytes w n.toNat) 1) ∨
      t = s.faulted .badLength ∨ t = s.faulted .unwrittenEntry) := by
  obtain ⟨hr, h⟩ := whenUnit_next.1 h
  refine ⟨hr, ?_⟩
  split at h
  · rename_i n w hn hw
    split at h
    · exact .inr (.inl (raise_next.1 h))
    · injection h with h
      exact .inl ⟨n, w, hn, hw, by omega, by omega, h.symm⟩
  · exact .inr (.inr (raise_next.1 h))

/-- An enabled ESC's effect, or one of its two faults (40 R103). -/
theorem execEsc_next {lit : Byte} {s t : State} (h : execEsc lit s = .next t) :
    (s.status = .run ∧ s.posIn ≠ s.inLen ∧ s.windowsFit) ∧
    ((s.posIn + 1 ≠ s.inLen ∧ (∃ b, Memory.read s.imem (s.posIn + 1) = some b) ∧ t = s.emitted [lit] 2) ∨
      t = s.faulted .danglingEscape ∨ t = s.faulted .unwrittenInput) := by
  obtain ⟨hr, h⟩ := whenUnit_next.1 h
  refine ⟨hr, ?_⟩
  split at h
  · have h := raise_next.1 h
    unfold literalLack at h
    split at h
    · exact .inr (.inl h)
    · exact .inr (.inr h)
  · rename_i b hb
    injection h with h
    unfold literalAt at hb
    split at hb
    · cases hb
    · exact .inl ⟨by assumption, ⟨b, hb⟩, h.symm⟩

/-- An enabled FIN's effect, with or without the forced terminator (40 R104). -/
theorem execFin_next {s t : State} (h : execFin s = .next t) :
    (s.status = .run ∧ s.posIn = s.inLen ∧ s.windowsFit) ∧
    ((terminatorForced (ztRead s) s = true ∧ t = ((s.setOut (s.outSize - 1) Config.terminator).finished.afterZtRead)) ∨
      (terminatorForced (ztRead s) s = false ∧ t = s.finished.afterZtRead)) := by
  obtain ⟨hr, h⟩ := whenEnd_next.1 h
  refine ⟨hr, ?_⟩
  split at h
  · rename_i hf
    injection h with h
    exact .inl ⟨hf, h.symm⟩
  · rename_i hf
    injection h with h
    exact .inr ⟨by simpa using hf, h.symm⟩

/-- START always answers a next state: unchanged in FAULT, one of its four faults, or the run begun. -/
theorem execStart_next {m n : Nat} {s t : State} (h : execStart m n s = .next t) :
    (s.status = .fault ∧ t = s) ∨
    (s.status ≠ .fault ∧ ∃ c, t = s.faulted c ∧ c ∈ [Cause.notConfigured, .range, .lengthOverflow, .startWhileBusy]) ∨
    (s.status ≠ .fault ∧ s.status ≠ .run ∧ s.zt ≠ none ∧ m ≤ s.params.inCap ∧ n ≤ s.params.outCap ∧
      8 * m ≤ s.params.maxLen ∧ t = s.begun m n) := by
  unfold execStart at h
  split at h
  · injection h with h; exact .inl ⟨by assumption, h.symm⟩
  · split at h
    · exact .inr (.inl ⟨by assumption, _, raise_next.1 h, by decide⟩)
    · split at h
      · exact .inr (.inl ⟨by assumption, _, raise_next.1 h, by decide⟩)
      · split at h
        · exact .inr (.inl ⟨by assumption, _, raise_next.1 h, by decide⟩)
        · split at h
          · exact .inr (.inl ⟨by assumption, _, raise_next.1 h, by decide⟩)
          · injection h with h
            exact .inr (.inr ⟨by assumption, by assumption, by assumption, by omega, by omega, by omega, h.symm⟩)

/-- RESET answers the reset state (41 R146). -/
theorem execReset_next {s t : State} (h : execReset s = .next t) : t = s.restored := by
  injection h with h; exact h.symm

end Sys2Proof.Machine
end

