-- ==== Sys2Proof/Laws/Effects.lean ====
section
/-! SUPPORT. What one instruction can do, said once for all of them: `exec_effect`. A claim over every instruction is a case analysis
of its few kinds of effect, and unfolds no meaning. -/

namespace Sys2Proof.Machine

/-- The host may write: neither FAULT nor RUN. -/
abbrev State.Idle (s : State) : Prop := s.status ≠ .fault ∧ s.status ≠ .run

/-- The effects an instruction can have on a state. -/
inductive Effect (s : State) : Instr → State → Prop where
  /-- A fault of the instruction's own is raised. -/
  | faulted (i : Instr) (c : Cause) (hs : s.status ≠ .fault) (hc : c ∈ causesOf i) : Effect s i (s.faulted c)
  /-- A write action or START in FAULT. -/
  | ignored (i : Instr) (hs : s.status = .fault) (hi : i.agent = .host) (hr : isRead i = false) : Effect s i s
  /-- A read action returns. -/
  | returned (i : Instr) (v : Option HostValue) (any : Nat → HostValue) (hr : isRead i = true) :
      Effect s i (s.answered v any)
  | sym (c : Fin Config.nCodes) (n : Byte) (w : SymWord) (h : s.status = .run ∧ s.posIn ≠ s.inLen ∧ s.windowsFit)
      (hn : s.len[c.val] = some n) (hw : s.sym[c.val] = some w) (h1 : 1 ≤ n.toNat) (h8 : n.toNat ≤ 8) :
      Effect s (.sym c) (s.emitted (symbolBytes w n.toNat) 1)
  | esc (l : Byte) (h : s.status = .run ∧ s.posIn ≠ s.inLen ∧ s.windowsFit) (hn : s.posIn + 1 ≠ s.inLen) :
      Effect s (.esc l) (s.emitted [l] 2)
  | finForced (h : s.status = .run ∧ s.posIn = s.inLen ∧ s.windowsFit) (hf : terminatorForced (ztRead s) s = true) :
      Effect s .fin ((s.setOut (s.outSize - 1) Config.terminator).finished.afterZtRead)
  | fin (h : s.status = .run ∧ s.posIn = s.inLen ∧ s.windowsFit) (hf : terminatorForced (ztRead s) s = false) :
      Effect s .fin s.finished.afterZtRead
  | wrZt (v : Bool) (h : s.Idle) : Effect s (.wrZt v) (s.setZt v)
  | wrLen (c v : Byte) (h : s.Idle) (hc : isTableCode c = true) : Effect s (.wrLen c v) (s.setLen c v)
  | wrSym (c : Byte) (w : SymWord) (h : s.Idle) (hc : isTableCode c = true) : Effect s (.wrSym c w) (s.setSym c w)
  | loadTable (z : Bool) (ls : Vector Byte Config.nCodes) (ws : Vector SymWord Config.nCodes) (h : s.Idle) :
      Effect s (.loadTable z ls ws) (s.setTable z ls ws)
  | start (m n : Nat) (h : s.Idle) (hz : s.zt ≠ none) (hm : m ≤ s.params.inCap) (hn : n ≤ s.params.outCap)
      (hl : 8 * m ≤ s.params.maxLen) : Effect s (.start m n) (s.begun m n)
  | wrIn (a : Nat) (b : Byte) (h : s.Idle) (ha : a < s.params.inCap) : Effect s (.wrIn a b) (s.setIn a b)
  | wrOut (a : Nat) (b : Byte) (h : s.Idle) (ha : a < s.params.outCap) : Effect s (.wrOut a b) (s.setOut a b)
  | reset : Effect s .reset s.restored

/-- The causes an instruction raises are causes of a fault. -/
theorem ne_none_of_mem_causesOf {c : Cause} {i : Instr} (h : c ∈ causesOf i) : c ≠ .none := by
  rintro rfl
  cases i <;> simp [causesOf] at h

theorem Effect.of_hostWrite {s t u : State} {i : Instr} {ok : Bool} {busy : Cause} (h : hostWrite ok busy s t = .next u)
    (hi : i.agent = .host) (hr : isRead i = false) (hb : busy ∈ causesOf i)
    (ho : ok = false → .badHostOperand ∈ causesOf i) (ht : s.Idle → ok = true → Effect s i t) : Effect s i u := by
  rcases hostWrite_next h with ⟨h1, rfl⟩ | ⟨h1, h2, rfl⟩ | ⟨h1, _, rfl⟩ | ⟨h1, h2, h3, rfl⟩
  · exact .ignored i h1 hi hr
  · exact .faulted i _ h1 (ho h2)
  · exact .faulted i _ (by simp [h1]) hb
  · exact ht ⟨h1, h2⟩ h3

theorem Effect.of_hostRead {s u : State} {i : Instr} {ok : Bool} {v : Option HostValue} {any : Nat → HostValue}
    (h : hostRead ok v any s = .next u) (hr : isRead i = true) (ho : ok = false → .badHostOperand ∈ causesOf i) :
    Effect s i u := by
  rcases hostRead_next h with ⟨_, rfl⟩ | ⟨_, _, rfl⟩ | ⟨h1, h2, rfl⟩
  · exact .returned i _ _ hr
  · exact .returned i _ _ hr
  · exact .faulted i _ h2 (ho h1)

/-- An instruction that answers a next state has one of the effects. -/
theorem exec_effect {i : Instr} {s t : State} (h : exec i s = .next t) : Effect s i t := by
  cases i with
  | sym c =>
    obtain ⟨hr, ⟨n, w, hn, hw, h1, h8, rfl⟩ | rfl | rfl⟩ := execSym_next h
    · exact .sym c n w hr hn hw h1 h8
    · exact .faulted _ _ (by simp [hr.1]) (by simp [causesOf])
    · exact .faulted _ _ (by simp [hr.1]) (by simp [causesOf])
  | esc l =>
    obtain ⟨hr, ⟨h1, _, rfl⟩ | rfl | rfl⟩ := execEsc_next h
    · exact .esc l hr h1
    · exact .faulted _ _ (by simp [hr.1]) (by simp [causesOf])
    · exact .faulted _ _ (by simp [hr.1]) (by simp [causesOf])
  | fin =>
    obtain ⟨hr, ⟨hf, rfl⟩ | ⟨hf, rfl⟩⟩ := execFin_next h
    · exact .finForced hr hf
    · exact .fin hr hf
  | start m n =>
    rcases execStart_next h with ⟨h1, rfl⟩ | ⟨h1, c, rfl, hc⟩ | ⟨h1, h2, h3, h4, h5, h6, rfl⟩
    · exact .ignored _ h1 rfl rfl
    · exact .faulted _ c h1 hc
    · exact .start m n ⟨h1, h2⟩ h3 h4 h5 h6
  | reset => rw [execReset_next h]; exact .reset
  | wrZt v => exact .of_hostWrite h rfl rfl (by simp [causesOf]) (by simp) fun a _ => .wrZt v a
  | wrLen c v => exact .of_hostWrite h rfl rfl (by simp [causesOf]) (by simp [causesOf]) fun a o => .wrLen c v a o
  | wrSym c w => exact .of_hostWrite h rfl rfl (by simp [causesOf]) (by simp [causesOf]) fun a o => .wrSym c w a o
  | loadTable z ls ws => exact .of_hostWrite h rfl rfl (by simp [causesOf]) (by simp) fun a _ => .loadTable z ls ws a
  | wrIn a b =>
    exact .of_hostWrite h rfl rfl (by simp [causesOf]) (by simp [causesOf]) fun x o => .wrIn a b x (by simpa using o)
  | wrOut a b =>
    exact .of_hostWrite h rfl rfl (by simp [causesOf]) (by simp [causesOf]) fun x o => .wrOut a b x (by simpa using o)
  | rdIn => exact .of_hostRead h rfl (by simp [causesOf])
  | rdOut => exact .of_hostRead h rfl (by simp [causesOf])
  | rdLen => exact .of_hostRead h rfl (by simp [causesOf])
  | rdSym => exact .of_hostRead h rfl (by simp [causesOf])
  | rdZt => exact .of_hostRead (ok := true) h rfl (by simp)
  | rdStatus => exact .of_hostRead (ok := true) h rfl (by simp)
  | rdCursors => exact .of_hostRead (ok := true) h rfl (by simp)
  | rdResult => exact .of_hostRead (ok := true) h rfl (by simp)

end Sys2Proof.Machine
end

