-- ==== Sys2Proof/Laws/PerInstr.lean ====
section
/-! SUPPORT. Per-instruction families: what holds of every constructor of Instr, one lemma per constructor. -/

namespace Sys2Proof.Laws.EncodedLength

/-- An instruction's encoding has the length of its format: 1 byte for format S, 2 for format E, and no encoding for FIN and the
host actions (30_encoding R81, R82, R88; 41_host_actions preamble). -/
def Statement (i : Instr) : Prop := (encode i).map List.length = i.unitLength

theorem sym (code : Fin Config.nCodes) : Statement (.sym code) := rfl
theorem esc (lit : Byte) : Statement (.esc lit) := rfl
theorem fin : Statement .fin := rfl
theorem wrZt (v : Bool) : Statement (.wrZt v) := rfl
theorem wrLen (c v : Byte) : Statement (.wrLen c v) := rfl
theorem wrSym (c : Byte) (w : SymWord) : Statement (.wrSym c w) := rfl
theorem loadTable (zt : Bool) (lens : Vector Byte Config.nCodes) (syms : Vector SymWord Config.nCodes) :
    Statement (.loadTable zt lens syms) := rfl
theorem start (inLen outSize : Nat) : Statement (.start inLen outSize) := rfl
theorem wrIn (a : Nat) (b : Byte) : Statement (.wrIn a b) := rfl
theorem wrOut (a : Nat) (b : Byte) : Statement (.wrOut a b) := rfl
theorem rdIn (a : Nat) : Statement (.rdIn a) := rfl
theorem rdOut (a : Nat) : Statement (.rdOut a) := rfl
theorem rdZt : Statement .rdZt := rfl
theorem rdLen (c : Byte) : Statement (.rdLen c) := rfl
theorem rdSym (c : Byte) : Statement (.rdSym c) := rfl
theorem rdStatus : Statement .rdStatus := rfl
theorem rdCursors : Statement .rdCursors := rfl
theorem rdResult : Statement .rdResult := rfl
theorem reset : Statement .reset := rfl

end Sys2Proof.Laws.EncodedLength
end

