-- ==== Sys2Proof/Laws/Step.lean ====
section
/-! SUPPORT. What one step of the machine does: whose turn it is, and what the engine takes at POS_IN. -/

namespace Sys2Proof.Machine

/-- With no turn left the engine moves. -/
theorem step_of_silent {s : State} (h : outsideSpec s = none) (ht : s.turns = []) : step s = engineStep s := by
  simp [step, machineStep, h, scheduledStep, ht]

/-- The engine's turn. -/
theorem step_of_engine {s : State} {rest : List Turn} (h : outsideSpec s = none) (ht : s.turns = .engine :: rest) :
    step s = engineStep (s.withTurns rest) := by
  simp [step, machineStep, h, scheduledStep, ht]

/-- A host turn. -/
theorem step_of_host {s : State} {i : Instr} {rest : List Turn} (h : outsideSpec s = none) (ht : s.turns = .host i :: rest) :
    step s = hostStep i (s.withTurns rest) := by
  simp [step, machineStep, h, scheduledStep, ht]

/-- What a step that answers a next state is: an engine step or a host action, from the state with the turn used up. -/
theorem step_next {s t : State} (h : step s = .next t) : outsideSpec s = none ∧ ∃ ts,
    engineStep (s.withTurns ts) = .next t ∨ ∃ i, i.agent = .host ∧ exec i (s.withTurns ts) = .next t := by
  unfold step machineStep at h
  split at h
  · cases h
  · rename_i ho
    refine ⟨ho, ?_⟩
    unfold scheduledStep at h
    split at h
    · rename_i ht
      exact ⟨[], .inl (by rw [← h, show s.withTurns [] = s by simp [State.withTurns, ← ht]])⟩
    · exact ⟨_, .inl h⟩
    · unfold hostStep at h
      split at h
      · exact ⟨_, .inr ⟨_, by assumption, h⟩⟩
      · cases h

/-- At the stream's end the engine takes FIN. -/
theorem fetch_end {s : State} (h : s.posIn = s.inLen) : fetch s = .unit .fin := by simp [fetch, h]

/-- A ⊥ code byte faults. -/
theorem fetch_unwritten {s : State} (h : s.posIn ≠ s.inLen) (hb : Memory.read s.imem s.posIn = none) :
    fetch s = .raises .unwrittenInput := by
  simp [fetch, h, hb]

/-- A table code is taken as SYM. -/
theorem fetch_sym {s : State} {c : Fin Config.nCodes} (h : s.posIn ≠ s.inLen)
    (hb : Memory.read s.imem s.posIn = some (BitVec.ofNat 8 c.val)) : fetch s = .unit (.sym c) := by
  simp only [fetch, h, if_false, hb, unitBytes, decode_sym]

/-- An escape marker with its literal is taken as ESC. -/
theorem fetch_esc {s : State} {l : Byte} (h : s.posIn ≠ s.inLen)
    (hb : Memory.read s.imem s.posIn = some Config.escapeMarker) (hl : literalAt s = some l) :
    fetch s = .unit (.esc l) := by
  simp only [fetch, h, if_false, hb, unitBytes, hl, Option.toList, decode_esc]

/-- An escape marker with no literal faults. -/
theorem fetch_lack {s : State} (h : s.posIn ≠ s.inLen) (hb : Memory.read s.imem s.posIn = some Config.escapeMarker)
    (hl : literalAt s = none) : fetch s = .raises (literalLack s) := by
  simp only [fetch, h, if_false, hb, unitBytes, hl, Option.toList, decode_dangling]

/-- The literal the engine sees. -/
theorem literalAt_eq_some {s : State} {l : Byte} :
    literalAt s = some l ↔ s.posIn + 1 ≠ s.inLen ∧ Memory.read s.imem (s.posIn + 1) = some l := by
  unfold literalAt
  split <;> simp_all

/-- What the engine takes at POS_IN: FIN at the end, else SYM, ESC or a fault. -/
theorem fetch_cases (s : State) :
    (s.posIn = s.inLen ∧ fetch s = .unit .fin) ∨
    (s.posIn ≠ s.inLen ∧ ((∃ c, fetch s = .unit (.sym c) ∧ Memory.read s.imem s.posIn = some (BitVec.ofNat 8 c.val)) ∨
      (∃ l, fetch s = .unit (.esc l) ∧ Memory.read s.imem s.posIn = some Config.escapeMarker ∧ literalAt s = some l) ∨
      (∃ c, fetch s = .raises c ∧ c ≠ .none))) := by
  by_cases h : s.posIn = s.inLen
  · exact .inl ⟨h, fetch_end h⟩
  · refine .inr ⟨h, ?_⟩
    cases hb : Memory.read s.imem s.posIn with
    | none => exact .inr (.inr ⟨_, fetch_unwritten h hb, by decide⟩)
    | some b =>
      rcases byte_cases b with ⟨c, rfl⟩ | rfl
      · exact .inl ⟨c, fetch_sym h hb, rfl⟩
      · cases hl : literalAt s with
        | none => exact .inr (.inr ⟨_, fetch_lack h hb hl, by unfold literalLack; split <;> decide⟩)
        | some l => exact .inr (.inl ⟨l, fetch_esc h hb hl, rfl, rfl⟩)

/-- What an engine step that answers a next state did: FIN, a unit, or a fault. -/
theorem engineStep_next {s t : State} (h : engineStep s = .next t) :
    (s.status = .run ∧ s.windowsFit) ∧
    ((s.posIn = s.inLen ∧ exec .fin s = .next t) ∨
      (s.posIn ≠ s.inLen ∧ ((∃ c, exec (.sym c) s = .next t) ∨ (∃ l, exec (.esc l) s = .next t) ∨
        ∃ c, c ≠ .none ∧ t = s.faulted c))) := by
  rcases fetch_cases s with ⟨he, hf⟩ | ⟨hn, ⟨c, hf, _⟩ | ⟨l, hf, _⟩ | ⟨c, hf, hc⟩⟩ <;> rw [engineStep, hf] at h
  · have hr := (execFin_next h).1
    exact ⟨⟨hr.1, hr.2.2⟩, .inl ⟨he, h⟩⟩
  · have hr := (execSym_next h).1
    exact ⟨⟨hr.1, hr.2.2⟩, .inr ⟨hn, .inl ⟨c, h⟩⟩⟩
  · have hr := (execEsc_next h).1
    exact ⟨⟨hr.1, hr.2.2⟩, .inr ⟨hn, .inr (.inl ⟨l, h⟩)⟩⟩
  · obtain ⟨hr, h⟩ := whenUnit_next.1 h
    exact ⟨⟨hr.1, hr.2.2⟩, .inr ⟨hn, .inr (.inr ⟨c, hc, raise_next.1 h⟩)⟩⟩

/-- No steps. -/
@[simp] theorem runFor_zero (s : State) : runFor 0 s = .next s := rfl

/-- One step and then the rest. -/
theorem runFor_succ {k : Nat} {s t : State} (h : step s = .next t) : runFor (k + 1) s = runFor k t := by
  have h' : Sys2Proof.core.step s = .next t := h
  simp only [runFor, Host.Core.run, h']
  rfl

/-- A run of k + 1 steps that answers a next state took a first step that did. -/
theorem runFor_succ_next {k : Nat} {s u : State} (h : runFor (k + 1) s = .next u) :
    ∃ t, step s = .next t ∧ runFor k t = .next u := by
  cases hs : step s with
  | next t => exact ⟨t, rfl, by rw [runFor_succ hs] at h; exact h⟩
  | fault r =>
    have h' : Sys2Proof.core.step s = .fault r := hs
    simp only [runFor, Host.Core.run, h'] at h
    cases h
  | refused r =>
    have h' : Sys2Proof.core.step s = .refused r := hs
    simp only [runFor, Host.Core.run, h'] at h
    cases h

end Sys2Proof.Machine
end

