-- ==== Sys2Proof/Tests/Slice0.lean ====
section
/-! SUPPORT. Tests of the model, each on one step of a small state, with expected results from spec/95_test_vectors.md or by hand from
the rule named; and for every statement with hypotheses a state and operands that meet them, at the boundary values of its
clauses. -/

namespace Sys2Proof.Tests

set_option maxRecDepth 8000

open Sys2Proof Sys2Proof.Machine

/-! ### Small states -/

/-- The parameters of 95_test_vectors section 2.4: W_LEN = 8, IN_CAP = OUT_CAP = 40. -/
def params8 : Params := { wLen := 8, inCap := 40, outCap := 40, binding := .atomicDisjoint }

/-- After reset. -/
def fresh : State := State.powerOn params8

/-- IDLE with ZT written off. -/
def idle : State := { fresh with zt := some false }

/-- The source's example table T1 (95_test_vectors): code 5 is "he", code 6 is "llo". -/
def t1Len : Vector (Option Byte) 255 := withEntry (withEntry fresh.len 5#8 2#8) 6#8 3#8

def t1Sym : Vector (Option SymWord) 255 := withEntry (withEntry fresh.sym 5#8 0x6568#64) 6#8 0x6F6C6C#64

/-- In RUN at the start of the source's example stream `05 06 FF 21`, with OUT_SIZE = 6. -/
def running : State :=
  { idle with
    len := t1Len, sym := t1Sym, inLen := 4, outSize := 6, status := .run
    imem := [(0, 0x05#8), (1, 0x06#8), (2, 0xFF#8), (3, 0x21#8)] }

/-- In RUN at the example's escape unit. -/
def atEscape : State := { running with posIn := 2, posOut := 5 }

/-- In RUN at the end of the example's stream. -/
def atEnd : State := { running with posIn := 4, posOut := 6 }

/-- DONE. -/
def finished : State := { atEnd with status := .done, result := 6 }

/-- FAULT with CAUSE = DANGLING_ESCAPE. -/
def faulted : State := { idle with status := .fault, cause := 1#4 }

/-- One entry of the table at code `c`, in RUN with the one byte `c` as the stream. -/
def runningWith (c n : Byte) (w : SymWord) (posOut outSize : Nat) : State :=
  { idle with
    len := withEntry fresh.len c n, sym := withEntry fresh.sym c w, inLen := 1, posOut := posOut, outSize := outSize
    imem := [(0, c)], status := .run }

/-- The next state, where there is one. -/
def next : Answer → Option State
  | .next s => some s
  | .fault _ => none
  | .refused _ => none

/-- STATE, CAUSE, POS_IN and POS_OUT after a step. -/
def see (o : Answer) : Option (Status × Nat × Nat × Nat) :=
  (next o).map fun s => (s.status, s.cause.toNat, s.posIn, s.posOut)

/-- OMEM after a step. -/
def out (o : Answer) : Option Memory := (next o).map State.omem

/-! ### WellFormed refuses -/

theorem test_wf_start_accepts : (Instr.start 255 255).wellFormed params8 = true := by decide
theorem test_wf_start_inLen_too_wide : (Instr.start 256 0).wellFormed params8 = false := by decide
theorem test_wf_start_outSize_too_wide : (Instr.start 0 256).wellFormed params8 = false := by decide
theorem test_wf_params_accepts : params8.wellFormed = true := by decide
theorem test_wf_params_initial : Params.initial.wellFormed = true := by decide
theorem test_wf_params_wLen_small : ({ params8 with wLen := 3, inCap := 0, outCap := 0 } : Params).wellFormed = false := by decide
theorem test_wf_params_inCap_large : ({ params8 with inCap := 256 } : Params).wellFormed = false := by decide
theorem test_wf_params_outCap_large : ({ params8 with outCap := 256 } : Params).wellFormed = false := by decide
theorem test_wf_turn_host_unit : (Turn.host (.sym 5)).wellFormed params8 = false := by decide
theorem test_wf_turn_host_wide : (Turn.host (.start 256 0)).wellFormed params8 = false := by decide

/-! ### Decode: words written out bit by bit from 30_encoding R81, R82 -/

/-- Format S, bits 7:0 `code` = 0000 0101. -/
theorem test_decode_sym_5 : decode [0b00000101#8] = .ok (.sym 5, []) := rfl
/-- Format S, the highest code, 1111 1110. -/
theorem test_decode_sym_254 : decode [0b11111110#8] = .ok (.sym 254, []) := rfl
/-- Format E: 1111 1111 and the literal 0010 0001. -/
theorem test_decode_esc : decode [0b11111111#8, 0b00100001#8] = .ok (.esc 0x21#8, []) := rfl
/-- A literal 0xFF is no second escape (R87). -/
theorem test_decode_esc_ff : decode [0xFF#8, 0xFF#8, 0x05#8] = .ok (.esc 0xFF#8, [0x05#8]) := rfl
theorem test_decode_dangling : decode [0xFF#8] = .error .danglingEscape := rfl
theorem test_decode_end : decode [] = .error .endOfStream := rfl
theorem test_word_esc : decodeTableWord 16 0x21FF = some (.esc 0x21#8) := by decide
theorem test_word_sym : decodeTableWord 8 0x05 = some (.sym 5) := by decide
/-- V1's stream (95_test_vectors). -/
theorem test_parse_example : parseStream [0x05#8, 0x06#8, 0xFF#8, 0x21#8] = some [.sym 5, .sym 6, .esc 0x21#8] := by decide
/-- P2's listing (95_test_vectors): `SYM 1`, `SYM 2`, `ESC 'x'`, `TERM` with the code 0. -/
theorem test_assemble_p2 : assemble [.sym 1, .sym 2, .lit 0x78#8, .term 0] = [0x01#8, 0x02#8, 0xFF#8, 0x78#8, 0x00#8] := by decide

/-! ### The engine's instructions -/

/-- D-SYM-2: eight bytes, of which only the two below OUT_SIZE = 5 are written. -/
theorem test_sym_truncated :
    out (exec (.sym 0x10) (runningWith 0x10#8 8#8 0x0807060504030201#64 3 5)) = some [(3, 0x01#8), (4, 0x02#8)] ∧
    see (exec (.sym 0x10) (runningWith 0x10#8 8#8 0x0807060504030201#64 3 5)) = some (.run, 0, 1, 11) := by decide
/-- D-SYM-9: BAD_LENGTH although no byte would be written. -/
theorem test_sym_bad_length : see (exec (.sym 7) (runningWith 7#8 0xFF#8 0#64 8 8)) = some (.fault, 2, 0, 8) := by decide
/-- D-ESC-1. -/
theorem test_esc : out (exec (.esc 0x21#8) atEscape) = some [(5, 0x21#8)] ∧
    see (exec (.esc 0x21#8) atEscape) = some (.run, 0, 4, 6) := by decide
/-- D-ESC-5: a dangling escape. -/
theorem test_esc_dangling : see (exec (.esc 0#8) { atEscape with inLen := 3 }) = some (.fault, 1, 2, 5) := by decide
/-- D-FIN-2: exactly filled with ZT = 1. -/
theorem test_fin_forces : out (exec .fin { atEnd with zt := some true, omem := [(5, 0x21#8)] }) = some [(5, 0x00#8)] := by decide
/-- D-FIN-5: OUT_SIZE = 0. -/
theorem test_fin_empty_buffer : out (exec .fin { atEnd with zt := some true, outSize := 0 }) = some [] ∧
    (next (exec .fin { atEnd with zt := some true, outSize := 0 })).map State.result = some 6 := by decide

/-! ### The host's actions -/

/-- D-H-6. -/
theorem test_wrZt_busy : see (exec (.wrZt false) running) = some (.fault, 9, 0, 0) := by decide
/-- D-H-13: no effect in FAULT. -/
theorem test_wrZt_in_fault : see (exec (.wrZt true) faulted) = some (.fault, 1, 0, 0) := by decide
/-- D-H-7: the operand is checked before the run in progress. -/
theorem test_wrLen_operand_first : see (exec (.wrLen 255#8 1#8) running) = some (.fault, 11, 0, 0) := by decide
/-- D-H-15: a length outside 1..8 is stored. -/
theorem test_wrLen_any_value : (next (exec (.wrLen 3#8 0x20#8) idle)).map (fun s => entryAt s.len 3#8) = some (some 0x20#8) := by decide
/-- D-H-8. -/
theorem test_wrSym_operand : see (exec (.wrSym 255#8 0#64) idle) = some (.fault, 11, 0, 0) := by decide
/-- R133's example. -/
theorem test_wrSym : (next (exec (.wrSym 5#8 0x6568#64) idle)).map (fun s => entryAt s.sym 5#8) = some (some 0x6568#64) := by decide
/-- R134: LOAD_TABLE writes the last entry too. -/
theorem test_loadTable : (next (exec (.loadTable true (Vector.replicate 255 1#8) (Vector.replicate 255 7#64)) fresh)).map
    (fun s => (s.zt, entryAt s.len 254#8, entryAt s.sym 254#8)) = some (some true, some 1#8, some 7#64) := by decide
/-- D-H-3: 8 × 32 = 256 > 255. -/
theorem test_start_overflow : see (exec (.start 32 10) idle) = some (.fault, 7, 0, 0) := by decide
/-- D-H-4: 8 × 31 = 248 <= 255. -/
theorem test_start : (next (exec (.start 31 10) idle)).map (fun s => (s.status, s.inLen, s.outSize)) = some (.run, 31, 10) := by decide
/-- R136's example, and D-H-9. -/
theorem test_wrIn : (next (exec (.wrIn 0 0x05#8) idle)).map State.imem = some [(0, 0x05#8)] := by decide
theorem test_wrIn_busy : see (exec (.wrIn 0 0#8) running) = some (.fault, 10, 0, 0) := by decide
/-- R137, and D-H-10. -/
theorem test_wrOut : out (exec (.wrOut 6 0xAA#8) idle) = some [(6, 0xAA#8)] := by decide
theorem test_wrOut_busy : see (exec (.wrOut 0 0#8) running) = some (.fault, 10, 0, 0) := by decide
/-- R138's example; legal during a run. -/
theorem test_rdIn : (next (exec (.rdIn 0) running)).map State.answer = some (some (.byte 0x05#8)) := by decide
/-- R138: an offset at the capacity. -/
theorem test_rdIn_range : see (exec (.rdIn 40) idle) = some (.fault, 11, 0, 0) := by decide
/-- R139's example. -/
theorem test_rdOut : (next (exec (.rdOut 0) { finished with omem := [(0, 0x68#8)] })).map State.answer =
    some (some (.byte 0x68#8)) := by decide
/-- D-H-11: no state change during a run. -/
theorem test_rdOut_busy : see (exec (.rdOut 0) running) = some (.run, 0, 0, 0) := by decide
/-- R140. -/
theorem test_rdZt : (next (exec .rdZt { idle with zt := some true })).map State.answer = some (some (.zt true)) := by decide
/-- R141's example. -/
theorem test_rdLen : (next (exec (.rdLen 5#8) running)).map State.answer = some (some (.byte 2#8)) := by decide
/-- R142's example. -/
theorem test_rdSym : (next (exec (.rdSym 6#8) running)).map State.answer = some (some (.word 0x00000000006F6C6C#64)) := by decide
/-- R143's example: (2, 0) after the source's example run. -/
theorem test_rdStatus : (next (exec .rdStatus finished)).map State.answer = some (some (.status 2#2 0#4)) := by decide
/-- D-ESC-7: RD_CURSORS = (2, 4, 1, 2) after `05 FF`. -/
theorem test_rdCursors : (next (exec .rdCursors { faulted with inLen := 2, outSize := 4, posIn := 1, posOut := 2 })).map State.answer =
    some (some (.cursors 2 4 1 2)) := by decide
/-- R145's example. -/
theorem test_rdResult : (next (exec .rdResult finished)).map State.answer = some (some (.result 6)) := by decide
/-- D-H-14; and from a run with a written table (R190). -/
theorem test_reset : see (exec .reset faulted) = some (.idle, 0, 0, 0) := by decide
theorem test_reset_table : (next (exec .reset running)).map (fun s => (s.zt, entryAt s.len 5#8, entryAt s.sym 5#8)) =
    some (none, none, none) := by decide

/-! ### Steps -/

/-- P1 step 1 (95_test_vectors): the engine takes SYM 5 and writes "he". -/
theorem test_step_sym : out (step running) = some [(0, 0x68#8), (1, 0x65#8)] ∧ see (step running) = some (.run, 0, 1, 2) := by decide
/-- D-ESC-6: a ⊥ literal. -/
theorem test_step_unwritten_literal :
    see (step { running with imem := [(0, 0xFF#8)], inLen := 2 }) = some (.fault, 4, 0, 0) := by decide
/-- R100, R14 (d): no move outside a run. -/
theorem test_step_reset_no_move : step State.reset = .fault .noMove := by rfl
/-- R165: a host table write during the run faults; the model admits either agent first. -/
theorem test_step_host_first : see (step { running with turns := [.host (.wrLen 7#8 1#8), .engine] }) = some (.fault, 9, 0, 0) := by decide
/-- A placed word is what the next step runs, right after reset. -/
theorem test_placed_esc : see (step (State.reset.withFetchWord 16 0x21FF)) = some (.run, 0, 2, 1) := by decide
theorem test_placed_fin : see (step (State.reset.withFetchWord 0 0)) = some (.done, 0, 0, 0) := by decide

/-! ### Witnesses: a state and operands that meet each statement's hypotheses, clause by clause -/

theorem running_ready : running.UnitReady := ⟨rfl, by decide, by decide⟩
theorem atEscape_ready : atEscape.UnitReady := ⟨rfl, by decide, by decide⟩
theorem atEnd_ready : atEnd.EndReady := ⟨rfl, by decide, by decide⟩
theorem idle_writable : idle.Writable := .inl rfl
theorem finished_writable : finished.Writable := .inr rfl

theorem running_inv : running.Inv := by
  constructor <;> decide

theorem finished_inv : finished.Inv := by
  constructor <;> decide

theorem witness_ByteZeroSelectsFormat : (0x00#8 : Byte) ≠ 0xFF#8 ∧ (0xFE#8 : Byte) ≠ 0xFF#8 := by decide
theorem witness_EncodedUnitDecodes : encode (.sym 254) = some [0xFE#8] ∧ encode (.esc 0xFF#8) = some [0xFF#8, 0xFF#8] := by decide
theorem witness_DecodedUnitEncodes :
    decode [0xFE#8, 0xFF#8] = .ok (.sym 254, [0xFF#8]) ∧ ([0xFF#8, 0x00#8] : List Byte) ≠ [] ∧ ([0xFF#8, 0x00#8] : List Byte) ≠ [0xFF#8] :=
  ⟨rfl, by decide, by decide⟩
theorem witness_StreamParsesUniquely :
    (∀ u ∈ [Instr.sym 254, Instr.esc 0xFF#8], encode u ≠ none) ∧
    parseStream [0xFE#8, 0xFF#8, 0xFF#8] = some [.sym 254, .esc 0xFF#8] ∧ parseStream [0xFE#8, 0xFF#8] = none := by decide
theorem witness_ListingAssemblesToItsUnits :
    [Line.sym 1, Line.lit 0x78#8, Line.term 0].map Line.unit = [Instr.sym 1, Instr.esc 0x78#8, Instr.sym 0].map some := by decide

theorem witness_StepRunsTheDecodedUnit :
    (outsideSpec running = none ∧ running.posIn + [0x05#8].length ≤ running.inLen ∧
      (∀ j, j < [0x05#8].length → Memory.read running.imem (running.posIn + j) = [0x05#8][j]?) ∧
      decode [0x05#8] = .ok (.sym 5, []) ∧ running.turns = []) ∧
    (outsideSpec { atEscape with turns := [.engine] } = none ∧ atEscape.posIn + [0xFF#8, 0x21#8].length ≤ atEscape.inLen ∧
      (∀ j, j < [0xFF#8, 0x21#8].length → Memory.read atEscape.imem (atEscape.posIn + j) = [0xFF#8, 0x21#8][j]?) ∧
      decode [0xFF#8, 0x21#8] = .ok (.esc 0x21#8, []) ∧ ({ atEscape with turns := [.engine] } : State).turns = .engine :: []) :=
  ⟨⟨by decide, by decide, by decide, rfl, rfl⟩, ⟨by decide, by decide, by decide, rfl, rfl⟩⟩

/-- At the end; a ⊥ code byte; the highest code; an escape with its literal, dangling, and with a ⊥ literal. -/
theorem witness_EngineDispatch :
    (outsideSpec atEnd = none ∧ atEnd.status = .run ∧ atEnd.windowsFit ∧ atEnd.turns = [] ∧ atEnd.posIn = atEnd.inLen) ∧
    (outsideSpec { running with imem := [] } = none ∧ running.posIn ≠ running.inLen ∧ Memory.read [] running.posIn = none) ∧
    (Memory.read (runningWith 254#8 1#8 0x7A#64 0 1).imem 0 = some (BitVec.ofNat 8 (254 : Fin 255).val) ∧
      outsideSpec (runningWith 254#8 1#8 0x7A#64 0 1) = none ∧ (runningWith 254#8 1#8 0x7A#64 0 1).UnitReady) ∧
    (Memory.read atEscape.imem atEscape.posIn = some 0xFF#8 ∧ Memory.read atEscape.imem (atEscape.posIn + 1) = some 0x21#8 ∧
      outsideSpec atEscape = none ∧ atEscape.UnitReady) ∧
    (({ atEscape with inLen := 3 } : State).posIn + 1 = 3 ∧ ({ atEscape with inLen := 3 } : State).UnitReady) ∧
    (Memory.read [(2, 0xFF#8)] (atEscape.posIn + 1) = none ∧ ({ atEscape with imem := [(2, 0xFF#8)] } : State).UnitReady) :=
  ⟨by decide, by decide, ⟨by decide, by decide, ⟨rfl, by decide, by decide⟩⟩, ⟨by decide, by decide, by decide, atEscape_ready⟩,
    ⟨rfl, ⟨rfl, by decide, by decide⟩⟩, ⟨by decide, ⟨rfl, by decide, by decide⟩⟩⟩

theorem witness_EngineStepsExactlyInRun :
    running.windowsFit ∧ running.status = .run ∧ idle.windowsFit ∧ idle.status ≠ .run ∧ (∃ t, engineStep running = .next t) :=
  ⟨by decide, rfl, by decide, by decide, _, rfl⟩
theorem witness_StepRunsTheHostAction :
    outsideSpec { running with turns := [.host .rdStatus] } = none ∧ (Instr.rdStatus).agent = .host := by decide
theorem witness_HostActionAlwaysAnswers : (Instr.start 0 0).agent = .host := rfl
theorem witness_EitherOrderIsAdmitted :
    outsideSpec atEnd = none ∧ atEnd.EndReady ∧ isTableWrite (.wrLen 254#8 9#8) = true ∧ isTableWrite (.wrZt true) = true ∧
    isTableWrite (.wrLen 255#8 1#8) = false := ⟨by decide, atEnd_ready, by decide, rfl, by decide⟩
theorem witness_RefusesWhatLiesOutsideTheSpec :
    (3 < 4 ∧ 2 ^ params8.wLen - 1 < 256) ∧ ({ params8 with binding := .overlapping } : Params).wellFormed = true ∧
    ({ params8 with binding := .split } : Params).wellFormed = true ∧
    params8.wellFormed = true ∧ params8.binding = .atomicDisjoint ∧ 12 ≤ (12#4).toNat := by decide
theorem witness_PlacedWordRunsNext :
    running.params.wellFormed = true ∧ running.params.binding = .atomicDisjoint ∧ decodeTableWord 16 0xFFFF = some (.esc 0xFF#8) ∧
    decodeTableWord 8 0xFE = some (.sym 254) ∧ decodeTableWord 0 0 = some .fin := by decide

/-- The lengths 1 and 8 and their neighbours 0 and 9; a ⊥ length and a ⊥ word. -/
theorem witness_SymUnit :
    (runningWith 7#8 1#8 0#64 0 8).UnitReady ∧
    ((runningWith 7#8 1#8 0#64 0 8).len[7] = some 1#8 ∧ (runningWith 7#8 1#8 0#64 0 8).sym[7] = some 0#64 ∧ 1 ≤ (1#8).toNat) ∧
    ((runningWith 7#8 8#8 0#64 0 8).len[7] = some 8#8 ∧ (8#8).toNat ≤ 8) ∧
    ((runningWith 7#8 0#8 0#64 0 8).len[7] = some 0#8 ∧ (0#8).toNat < 1) ∧
    ((runningWith 7#8 9#8 0#64 0 8).len[7] = some 9#8 ∧ 8 < (9#8).toNat) ∧
    (running.len[7] = none ∧ running.UnitReady) ∧
    (({ running with len := withEntry running.len 9#8 1#8 } : State).sym[9] = none) :=
  ⟨⟨rfl, by decide, by decide⟩, by decide, by decide, by decide, by decide, ⟨by decide, running_ready⟩, by decide⟩

/-- The last offset with a literal, the dangling escape, and a ⊥ literal. -/
theorem witness_EscUnit :
    (atEscape.UnitReady ∧ atEscape.posIn + 1 ≠ atEscape.inLen ∧ Memory.read atEscape.imem (atEscape.posIn + 1) = some 0x21#8) ∧
    (({ atEscape with inLen := 3 } : State).UnitReady ∧ ({ atEscape with inLen := 3 } : State).posIn + 1 = 3) ∧
    (({ atEscape with imem := [(2, 0xFF#8)] } : State).UnitReady ∧ Memory.read [(2, 0xFF#8)] 3 = none) :=
  ⟨⟨atEscape_ready, by decide, by decide⟩, ⟨⟨rfl, by decide, by decide⟩, rfl⟩, ⟨⟨rfl, by decide, by decide⟩, by decide⟩⟩

/-- The terminator is forced when exactly filled, and not one byte below. -/
theorem witness_FinStep :
    (({ atEnd with zt := some true } : State).EndReady ∧ atEnd.outSize ≤ atEnd.posOut ∧ 0 < atEnd.outSize) ∧
    (({ atEnd with zt := some true, outSize := 7 } : State).EndReady ∧ ¬ 7 ≤ atEnd.posOut) ∧
    (({ atEnd with zt := some true, outSize := 0 } : State).EndReady ∧ ¬ 0 < 0) ∧ (atEnd.EndReady ∧ atEnd.zt = some false) :=
  ⟨⟨⟨rfl, by decide, by decide⟩, by decide⟩, ⟨⟨rfl, by decide, by decide⟩, by decide⟩,
    ⟨⟨rfl, by decide, by decide⟩, by decide⟩, ⟨atEnd_ready, rfl⟩⟩

/-- D-SYM-11's padding. -/
theorem witness_PaddingHasNoEffect :
    running.UnitReady ∧ running.len[5] = some 2#8 ∧ running.sym[5] = some 0x6568#64 ∧
    ∀ j, j < (2#8).toNat → (0x6568#64).extractLsb' (8 * j) 8 = (0xFFFFFFFFFFFF6568#64).extractLsb' (8 * j) 8 :=
  ⟨running_ready, by decide, by decide, by decide⟩
theorem witness_EngineWriteBounds : (∃ t, engineStep running = .next t) ∧ (∃ t, engineStep atEnd = .next t) :=
  ⟨⟨_, rfl⟩, ⟨_, rfl⟩⟩

theorem witness_statuses :
    idle.Writable ∧ finished.Writable ∧ running.status = .run ∧ faulted.status = .fault ∧ running.status ≠ .fault :=
  ⟨idle_writable, finished_writable, rfl, rfl, by decide⟩
theorem witness_WrZtAction : idle.Writable ∧ running.status = .run ∧ faulted.status = .fault := ⟨idle_writable, rfl, rfl⟩
theorem witness_WrLenAction :
    ((254#8 : Byte) ≠ 255#8 ∧ idle.Writable) ∧ ((255#8 : Byte) = 255#8 ∧ running.status ≠ .fault) ∧
    ((254#8 : Byte) ≠ 255#8 ∧ running.status = .run) ∧ faulted.status = .fault :=
  ⟨⟨by decide, idle_writable⟩, by decide, by decide, rfl⟩
theorem witness_WrSymAction :
    ((254#8 : Byte) ≠ 255#8 ∧ finished.Writable) ∧ ((255#8 : Byte) = 255#8 ∧ idle.status ≠ .fault) ∧
    ((254#8 : Byte) ≠ 255#8 ∧ running.status = .run) ∧ faulted.status = .fault :=
  ⟨⟨by decide, finished_writable⟩, by decide, by decide, rfl⟩
theorem witness_LoadTableAction : finished.Writable ∧ running.status = .run ∧ faulted.status = .fault :=
  ⟨finished_writable, rfl, rfl⟩

/-- At the bounds: 31 and 32 bytes at W_LEN = 8, and the capacities 40 and 41. -/
theorem witness_StartAction :
    (idle.Writable ∧ idle.zt ≠ none ∧ 31 ≤ idle.params.inCap ∧ 40 ≤ idle.params.outCap ∧ 8 * 31 ≤ 2 ^ idle.params.wLen - 1) ∧
    faulted.status = .fault ∧ running.status = .run ∧ (fresh.Writable ∧ fresh.zt = none) ∧
    (finished.Writable ∧ finished.zt ≠ none ∧ (idle.params.inCap < 41 ∨ idle.params.outCap < 0)) ∧
    (idle.params.inCap < 0 ∨ idle.params.outCap < 41) ∧
    (idle.zt ≠ none ∧ 32 ≤ idle.params.inCap ∧ 40 ≤ idle.params.outCap ∧ 2 ^ idle.params.wLen - 1 < 8 * 32) :=
  ⟨⟨idle_writable, by decide⟩, rfl, rfl, ⟨.inl rfl, rfl⟩, ⟨finished_writable, by decide⟩, by decide, by decide⟩
theorem witness_WrInAction :
    (39 < idle.params.inCap ∧ idle.Writable) ∧ (idle.params.inCap ≤ 40 ∧ running.status ≠ .fault) ∧
    (39 < running.params.inCap ∧ running.status = .run) ∧ faulted.status = .fault :=
  ⟨⟨by decide, idle_writable⟩, by decide, by decide, rfl⟩
theorem witness_WrOutAction :
    (39 < idle.params.outCap ∧ finished.Writable) ∧ (idle.params.outCap ≤ 40 ∧ running.status ≠ .fault) ∧
    (39 < running.params.outCap ∧ running.status = .run) ∧ faulted.status = .fault :=
  ⟨⟨by decide, finished_writable⟩, by decide, by decide, rfl⟩

theorem witness_RdInAction :
    (3 < running.params.inCap ∧ Memory.read running.imem 3 = some 0x21#8) ∧
    (39 < running.params.inCap ∧ Memory.read running.imem 39 = none) ∧
    (faulted.params.inCap ≤ 40 ∧ faulted.status = .fault) ∧ (idle.params.inCap ≤ 40 ∧ idle.status ≠ .fault) := by decide
theorem witness_RdOutAction :
    (39 < finished.params.outCap ∧ finished.status ≠ .run ∧ Memory.read [(39, 0x68#8)] 39 = some 0x68#8) ∧
    (39 < running.params.outCap ∧ running.status = .run) ∧ (39 < idle.params.outCap ∧ Memory.read idle.omem 39 = none) ∧
    (faulted.params.outCap ≤ 40 ∧ faulted.status = .fault) ∧ (running.params.outCap ≤ 40 ∧ running.status ≠ .fault) := by decide
theorem witness_RdZtAction : idle.zt = some false ∧ fresh.zt = none := by decide
theorem witness_RdLenAction :
    ((5#8 : Byte) ≠ 255#8 ∧ entryAt running.len 5#8 = some 2#8) ∧ ((254#8 : Byte) ≠ 255#8 ∧ entryAt running.len 254#8 = none) ∧
    ((255#8 : Byte) = 255#8 ∧ faulted.status = .fault) ∧ ((255#8 : Byte) = 255#8 ∧ idle.status ≠ .fault) := by decide
theorem witness_RdSymAction :
    ((6#8 : Byte) ≠ 255#8 ∧ entryAt running.sym 6#8 = some 0x6F6C6C#64) ∧
    ((254#8 : Byte) ≠ 255#8 ∧ entryAt running.sym 254#8 = none) ∧
    ((255#8 : Byte) = 255#8 ∧ faulted.status = .fault) ∧ ((255#8 : Byte) = 255#8 ∧ idle.status ≠ .fault) := by decide
theorem witness_RdStatusAction :
    idle.status = .idle ∧ running.status = .run ∧ finished.status = .done ∧ faulted.status = .fault := by decide
theorem witness_RdResultAction : finished.status = .done ∧ running.status ≠ .done := by decide
theorem witness_ReadsHaveNoSideEffect :
    (isRead (.rdIn 3) = true ∧ ∃ t, exec (.rdIn 3) running = .next t) ∧ (∃ t, exec (.rdIn 40) running = .next t) :=
  ⟨⟨rfl, _, rfl⟩, ⟨_, rfl⟩⟩

theorem witness_ResetKeepsWhatIsNoElement : ∃ t, exec .reset finished = .next t := ⟨_, rfl⟩
theorem witness_FaultEntryIsPrecise :
    (∃ t, exec (.wrZt true) running = .next t ∧ running.status ≠ .fault ∧ t.status = .fault) ∧
    (∃ t, step { running with imem := [] } = .next t ∧ t.status = .fault) ∧ faulted.status = .fault :=
  ⟨⟨_, rfl, by decide, rfl⟩, ⟨_, rfl, rfl⟩, rfl⟩
theorem witness_CausesByRaiser :
    ∃ t, exec (.start 0 0) running = .next t ∧ running.status ≠ .fault ∧ t.status = .fault := ⟨_, rfl, by decide, rfl⟩
theorem witness_FaultsAreSticky :
    faulted.status = .fault ∧ (∃ t, exec .rdStatus faulted = .next t) ∧ Instr.rdStatus ≠ .reset ∧
    ((Instr.start 0 0).agent = .host ∧ isRead (.start 0 0) = false ∧ Instr.start 0 0 ≠ .reset) :=
  ⟨rfl, ⟨_, rfl⟩, by decide, by decide⟩
theorem witness_WritersOfEachElement : ∃ t, exec (.wrZt true) idle = .next t ∧ Instr.wrZt true ≠ .reset ∧ t.zt ≠ idle.zt :=
  ⟨_, rfl, by decide, by decide⟩
theorem witness_NoControlTransfer :
    (∃ t, exec (.sym 5) running = .next t ∧ t.posIn ≠ running.posIn) ∧
    (∃ t, exec (.esc 0x21#8) atEscape = .next t ∧ t.posIn ≠ atEscape.posIn) ∧
    (∃ t, exec (.start 4 6) finished = .next t ∧ t.posIn ≠ finished.posIn) ∧
    (∃ t, exec .reset finished = .next t ∧ t.posIn ≠ finished.posIn) ∧ (∃ t, engineStep atEnd = .next t) :=
  ⟨⟨_, rfl, by decide⟩, ⟨_, rfl, by decide⟩, ⟨_, rfl, by decide⟩, ⟨_, rfl, by decide⟩, ⟨_, rfl⟩⟩
theorem witness_StableDuringRun :
    running.status = .run ∧ (∃ t, exec (.rdOut 0) running = .next t) ∧ Instr.rdOut 0 ≠ .reset ∧ (Instr.rdOut 0).agent = .host :=
  ⟨rfl, ⟨_, rfl⟩, by decide, rfl⟩
theorem witness_EveryStepKeepsTheInvariant : running.Inv ∧ ∃ t, step running = .next t := ⟨running_inv, _, rfl⟩
theorem witness_ReachableStatesMeetRule40 :
    params8.wellFormed = true ∧
    ∃ t, runFor 2 { State.powerOn params8 with turns := [.host (.wrZt true), .host (.start 31 40)] } = .next t ∧ t.status = .run :=
  ⟨by decide, _, rfl, rfl⟩
theorem witness_RegistersFitTheirWidth : running.Inv := running_inv

theorem witness_RunTerminates :
    (running.Inv ∧ running.params.binding = .atomicDisjoint ∧ running.status = .run ∧ running.turns = []) ∧
    (Instr.rdCursors.agent = .host ∧ ∃ t, exec .rdCursors running = .next t ∧ t.status = .run) :=
  ⟨⟨running_inv, rfl, rfl, rfl⟩, rfl, _, rfl, rfl⟩

/-- The source's example decompresses to "hello!" (V1). -/
theorem running_decompresses : running.Decompresses [0x68#8, 0x65#8, 0x6C#8, 0x6C#8, 0x6F#8, 0x21#8] :=
  ⟨[0x05#8, 0x06#8, 0xFF#8, 0x21#8], [.sym 5, .sym 6, .esc 0x21#8], ⟨rfl, by decide⟩, by decide, by decide⟩
theorem witness_RunDecompresses :
    running.Inv ∧ running.params.binding = .atomicDisjoint ∧ running.status = .run ∧ running.turns = [] ∧ running.posIn = 0 ∧
    running.posOut = 0 ∧ running.Decompresses [0x68#8, 0x65#8, 0x6C#8, 0x6C#8, 0x6F#8, 0x21#8] :=
  ⟨running_inv, rfl, rfl, rfl, rfl, rfl, running_decompresses⟩
/-- The same clauses where the terminator is forced: ZT = 1, exactly filled. -/
theorem witness_RunDecompresses_forced :
    ({ running with zt := some true } : State).forcedAt 6 5 ∧ ¬ ({ running with zt := some true } : State).forcedAt 6 4 := by
  unfold State.forcedAt; decide
theorem witness_UntouchedBytesSurvive :
    running.status = .run ∧ running.turns = [] ∧ running.posIn = 0 ∧ running.posOut = 0 ∧ ∃ t, runFor 1 running = .next t :=
  ⟨rfl, rfl, rfl, rfl, _, rfl⟩
theorem witness_RunsAreDeterministic :
    running.SameRunData { running with omem := [(9, 0xAA#8)], result := 3, draws := 5 } ∧ running.windowsFit ∧
    outsideSpec running = none ∧ running.turns = [] ∧ running.zt ≠ none ∧ ∃ t, runFor 1 running = .next t :=
  ⟨⟨⟨rfl, rfl⟩, ⟨rfl, rfl⟩, ⟨rfl, rfl, rfl, rfl⟩, rfl, rfl, rfl, fun _ _ => rfl, fun _ _ _ _ _ _ => ⟨rfl, rfl⟩⟩,
    by decide, by decide, rfl, by decide, _, rfl⟩
theorem witness_EmptyInput :
    outsideSpec { idle with turns := [.host (.start 0 0), .engine] } = none ∧ idle.Writable ∧ idle.zt ≠ none ∧
    0 ≤ idle.params.outCap ∧ 40 ≤ idle.params.outCap := ⟨by decide, idle_writable, by decide, by decide, by decide⟩
theorem finished_decompresses : finished.Decompresses [0x68#8, 0x65#8, 0x6C#8, 0x6C#8, 0x6F#8, 0x21#8] :=
  ⟨[0x05#8, 0x06#8, 0xFF#8, 0x21#8], [.sym 5, .sym 6, .esc 0x21#8], ⟨rfl, by decide⟩, by decide, by decide⟩
theorem witness_TruncationRecovery :
    ({ finished with outSize := 5, turns := [.host (.start 4 6)] } : State).Inv ∧ finished.params.binding = .atomicDisjoint ∧
    finished.status = .done ∧ finished.Decompresses [0x68#8, 0x65#8, 0x6C#8, 0x6C#8, 0x6F#8, 0x21#8] ∧
    ({ finished with outSize := 5 } : State).truncated = true ∧ finished.result ≤ finished.params.outCap :=
  ⟨by constructor <;> decide, rfl, rfl, finished_decompresses, by decide, by decide⟩
theorem witness_RoundTripFillsTheBuffer :
    running.Decompresses [0x68#8, 0x65#8, 0x6C#8, 0x6C#8, 0x6F#8, 0x21#8] ∧ running.outSize = 6 ∧ running.zt = some false :=
  ⟨running_decompresses, rfl, rfl⟩

end Sys2Proof.Tests
end

section
/-! Proofs for spec/00_scope.md: the host's turn (R6, R11) and the width of the registers (R10). -/

namespace Sys2Proof.Machine

/-! ### The host's turn -/

/-- A host action's turn executes that action (41 R130). -/
theorem hostStep_of_host {i : Instr} (h : i.agent = .host) (s : State) : hostStep i s = exec i s := if_pos h

/-- Settles O11: in a state the spec covers, the host's turn is `hostStep`, which is `exec` for a host action. -/
theorem stepRunsTheHostAction : Obligations.StepRunsTheHostAction := by
  intro s i rest hcovered hturn hhost
  calc step s = hostStep i (s.withTurns rest) := step_of_host hcovered hturn
    _ = exec i (s.withTurns rest) := hostStep_of_host hhost _

/-! ### The width of the registers -/

/-- The constraints on the parameters (00 R7), as inequalities. -/
theorem wellFormed_params_iff (p : Params) :
    p.wellFormed = true ↔ 4 ≤ p.wLen ∧ p.inCap ≤ p.maxLen ∧ p.outCap ≤ p.maxLen := by
  simp [Params.wellFormed, and_assoc]

/-- A value fits W_LEN bits exactly when it is at most the largest length. -/
theorem lt_two_pow_wLen_iff {p : Params} {n : Nat} : n < 2 ^ p.wLen ↔ n ≤ p.maxLen :=
  (Nat.le_sub_one_iff_lt (Nat.two_pow_pos p.wLen)).symm

/-- IN_LEN fits, since it is at most IN_CAP (10 R40 b). -/
theorem State.Inv.inLen_le_maxLen {s : State} (h : s.Inv) : s.inLen ≤ s.params.maxLen :=
  h.inLen_le.trans ((wellFormed_params_iff _).1 h.params_legal).2.1

/-- OUT_SIZE fits, since it is at most OUT_CAP (10 R40 c). -/
theorem State.Inv.outSize_le_maxLen {s : State} (h : s.Inv) : s.outSize ≤ s.params.maxLen :=
  h.outSize_le.trans ((wellFormed_params_iff _).1 h.params_legal).2.2

/-- POS_IN fits, since it does not pass IN_LEN (40 R106). -/
theorem State.Inv.posIn_le_maxLen {s : State} (h : s.Inv) : s.posIn ≤ s.params.maxLen :=
  h.posIn_le.trans h.inLen_le_maxLen

/-- POS_OUT fits, since a byte of input yields at most eight bytes and START bounds 8 * IN_LEN (40 R106, R108). -/
theorem State.Inv.posOut_le_maxLen {s : State} (h : s.Inv) : s.posOut ≤ s.params.maxLen :=
  calc s.posOut ≤ 8 * s.posIn := h.posOut_le
    _ ≤ 8 * s.inLen := Nat.mul_le_mul_left 8 h.posIn_le
    _ ≤ s.params.maxLen := h.length_fits

/-- Settles O49: the invariant bounds each of the five registers by the largest length of W_LEN bits. -/
theorem registersFitTheirWidth : Obligations.RegistersFitTheirWidth := by
  intro s h
  exact ⟨lt_two_pow_wLen_iff.2 h.inLen_le_maxLen, lt_two_pow_wLen_iff.2 h.outSize_le_maxLen,
    lt_two_pow_wLen_iff.2 h.posIn_le_maxLen, lt_two_pow_wLen_iff.2 h.posOut_le_maxLen,
    lt_two_pow_wLen_iff.2 h.result_fits⟩

end Sys2Proof.Machine
end

section
/-! Proofs for spec/10_state.md: the invariants (R40) and who writes each element (R20), a symbol word's padding (R23), and what
RESET keeps. -/

namespace Sys2Proof.Machine

/-! ### The invariant after reset -/

/-- Power-on meets the invariant for all legal parameters (10 R39, R40): every register is 0 and both memories are empty. -/
theorem State.powerOn_inv {p : Params} (h : p.wellFormed = true) : (State.powerOn p).Inv where
  params_legal := h
  posIn_le := le_rfl
  inLen_le := Nat.zero_le _
  outSize_le := Nat.zero_le _
  posOut_le := le_rfl
  length_fits := Nat.zero_le _
  cause_zero_iff := ⟨fun _ => nofun, fun _ => rfl⟩
  cause_legal := Cause.none.code_lt
  result_fits := Nat.zero_le _
  zt_written := by simp [State.powerOn]
  imem_wf := List.Pairwise.nil
  omem_wf := List.Pairwise.nil
  imem_below := List.forall_mem_nil _
  omem_below := List.forall_mem_nil _

/-- Settles O46: State.reset is power-on with the model's legal parameters. -/
theorem resetMeetsTheInvariant : Obligations.ResetMeetsTheInvariant :=
  State.powerOn_inv (by decide)

/-! ### Each update of the state keeps the invariant -/

theorem State.Inv.restored {s : State} (h : s.Inv) : s.restored.Inv :=
  { State.powerOn_inv h.params_legal with }

theorem State.Inv.withTurns {s : State} (h : s.Inv) (ts : List Turn) : (s.withTurns ts).Inv := { h with }

theorem State.Inv.setLen {s : State} (h : s.Inv) (c v : Byte) : (s.setLen c v).Inv := { h with }

theorem State.Inv.setSym {s : State} (h : s.Inv) (c : Byte) (w : SymWord) : (s.setSym c w).Inv := { h with }

theorem State.Inv.setZt {s : State} (h : s.Inv) (v : Bool) : (s.setZt v).Inv :=
  { h with zt_written := fun _ => by simp }

theorem State.Inv.setTable {s : State} (h : s.Inv) (z : Bool) (ls : Vector Byte Config.nCodes)
    (ws : Vector SymWord Config.nCodes) : (s.setTable z ls ws).Inv :=
  { h with zt_written := fun _ => by simp }

theorem State.Inv.answered {s : State} (h : s.Inv) (v : Option HostValue) (any : Nat → HostValue) :
    (s.answered v any).Inv := by
  obtain ⟨x, d, e⟩ := s.answered_eq v any
  rw [e]
  exact { h with }

theorem State.Inv.afterZtRead {s : State} (h : s.Inv) : s.afterZtRead.Inv := by
  unfold State.afterZtRead
  split
  · exact h
  · exact { h with }

theorem State.Inv.setIn {s : State} (h : s.Inv) {a : Nat} (ha : a < s.params.inCap) (b : Byte) : (s.setIn a b).Inv :=
  { h with
    imem_wf := Memory.write_wf h.imem_wf a b
    imem_below := Memory.write_below h.imem_below ha b }

theorem State.Inv.setOut {s : State} (h : s.Inv) {a : Nat} (ha : a < s.params.outCap) (b : Byte) : (s.setOut a b).Inv :=
  { h with
    omem_wf := Memory.write_wf h.omem_wf a b
    omem_below := Memory.write_below h.omem_below ha b }

/-- A named cause other than NONE is what R40 (f) asks of FAULT. -/
theorem State.Inv.faulted {s : State} (h : s.Inv) {c : Cause} (hc : c ≠ .none) : (s.faulted c).Inv :=
  { h with
    cause_zero_iff := by simp [Cause.code_eq_zero, hc]
    cause_legal := c.code_lt
    zt_written := by simp }

/-- START's checks (41 R135) are what R40 (b), (c) and (e) ask of the new run, and outside FAULT there is no cause to clear. -/
theorem State.Inv.begun {s : State} (h : s.Inv) {m n : Nat} (hs : s.status ≠ .fault) (hz : s.zt ≠ none)
    (hm : m ≤ s.params.inCap) (hn : n ≤ s.params.outCap) (hl : 8 * m ≤ s.params.maxLen) : (s.begun m n).Inv :=
  { h with
    posIn_le := Nat.zero_le _
    inLen_le := hm
    outSize_le := hn
    posOut_le := Nat.zero_le _
    length_fits := hl
    cause_zero_iff := by simp [h.cause_zero_iff.2 hs]
    zt_written := fun _ => hz }

/-- A unit that stays inside the stream and puts out at most eight bytes for each byte it takes keeps R40 (a) and (d). -/
theorem State.Inv.emitted {s : State} (h : s.Inv) {bs : List Byte} {k : Nat} (hk : s.posIn + k ≤ s.inLen)
    (hbs : bs.length ≤ 8 * k) : (s.emitted bs k).Inv :=
  { h with
    posIn_le := hk
    posOut_le := by
      have := h.posOut_le
      simp only [State.emitted_posOut, State.emitted_posIn]
      omega
    omem_wf := Memory.emit_wf _ bs h.omem_wf _
    omem_below := Memory.emit_below h.outSize_le bs h.omem_below _ }

/-- RESULT takes POS_OUT, which fits its width. -/
theorem State.Inv.finished {s : State} (h : s.Inv) (hs : s.status = .run) : s.finished.Inv :=
  { h with
    cause_zero_iff := by simp [h.cause_zero_iff.2 (by simp [hs])]
    result_fits := h.posOut_le_maxLen
    zt_written := fun _ => h.zt_written (.inl hs) }

/-! ### Every step keeps the invariant -/

/-- The terminator is forced only in a buffer that is not empty (40 R104). -/
theorem outSize_pos_of_terminatorForced {z : Bool} {s : State} (h : terminatorForced z s = true) : 0 < s.outSize := by
  simp only [terminatorForced, Bool.and_eq_true, decide_eq_true_eq] at h
  exact h.1.1

/-- Every effect of an instruction keeps the invariant. -/
theorem Effect.inv {i : Instr} {s t : State} (e : Effect s i t) (h : s.Inv) : t.Inv := by
  have hin := h.posIn_le
  cases e with
  | faulted _ c _ hc => exact h.faulted (ne_none_of_mem_causesOf hc)
  | ignored => exact h
  | returned _ v any => exact h.answered v any
  | sym c n w hr _ _ _ h8 =>
    obtain ⟨_, hne, _⟩ := hr
    exact h.emitted (by omega) (by simpa using h8)
  | esc l hr hn =>
    obtain ⟨_, hne, _⟩ := hr
    exact h.emitted (by omega) (by simp)
  | finForced hr hf =>
    have hpos := outSize_pos_of_terminatorForced hf
    have hcap := h.outSize_le
    exact ((h.setOut (by omega) _).finished hr.1).afterZtRead
  | fin hr => exact (h.finished hr.1).afterZtRead
  | wrZt v => exact h.setZt v
  | wrLen c v => exact h.setLen c v
  | wrSym c w => exact h.setSym c w
  | loadTable z ls ws => exact h.setTable z ls ws
  | start m n hi hz hm hn hl => exact h.begun hi.1 hz hm hn hl
  | wrIn a b _ ha => exact h.setIn ha b
  | wrOut a b _ ha => exact h.setOut ha b
  | reset => exact h.restored

/-- A step that answers a next state raises the fetch's fault, or has an effect of some instruction, from the state with the turn
used up. -/
theorem step_effect {s t : State} (h : step s = .next t) : ∃ ts,
    (∃ c, c ≠ .none ∧ t = (s.withTurns ts).faulted c) ∨ ∃ i, Effect (s.withTurns ts) i t := by
  obtain ⟨_, ts, he | ⟨i, _, hx⟩⟩ := step_next h
  · refine ⟨ts, ?_⟩
    obtain ⟨_, ⟨_, hx⟩ | ⟨_, ⟨c, hx⟩ | ⟨l, hx⟩ | hc⟩⟩ := engineStep_next he
    · exact .inr ⟨_, exec_effect hx⟩
    · exact .inr ⟨_, exec_effect hx⟩
    · exact .inr ⟨_, exec_effect hx⟩
    · exact .inl hc
  · exact ⟨ts, .inr ⟨i, exec_effect hx⟩⟩

/-- Settles O47: a step raises a fault with a named cause or has an instruction's effect, and both keep the invariant. -/
theorem everyStepKeepsTheInvariant : Obligations.EveryStepKeepsTheInvariant := by
  intro s t h hstep
  obtain ⟨ts, ⟨c, hc, rfl⟩ | ⟨i, e⟩⟩ := step_effect hstep
  · exact (h.withTurns ts).faulted hc
  · exact e.inv (h.withTurns ts)

/-! ### Every reachable state -/

/-- What every step keeps, a run keeps. -/
theorem runFor_preserves {P : State → Prop} (hstep : ∀ s t, P s → step s = .next t → P t) {k : Nat} {s t : State}
    (h : P s) (hrun : runFor k s = .next t) : P t := by
  induction k generalizing s with
  | zero =>
    rw [runFor_zero] at hrun
    injection hrun with e
    exact e ▸ h
  | succ k ih =>
    obtain ⟨u, hu, hrest⟩ := runFor_succ_next hrun
    exact ih (hstep s u h hu) hrest

/-- No instruction changes the parameters. -/
theorem Effect.params_eq {i : Instr} {s t : State} (e : Effect s i t) : t.params = s.params := by
  cases e <;> simp

/-- No step changes the parameters. -/
theorem step_params_eq {s t : State} (h : step s = .next t) : t.params = s.params := by
  obtain ⟨ts, ⟨c, _, rfl⟩ | ⟨i, e⟩⟩ := step_effect h
  · simp
  · simpa using e.params_eq

/-- Settles O48: power-on meets the invariant, every step keeps it and the parameters, and (a) to (f) are fields of it. -/
theorem reachableStatesMeetRule40 : Obligations.ReachableStatesMeetRule40 := by
  intro p ts k t hp hrun
  have hinv : t.Inv := runFor_preserves everyStepKeepsTheInvariant ((State.powerOn_inv hp).withTurns ts) hrun
  have hparams : t.params = p :=
    runFor_preserves (P := fun u => u.params = p) (fun _ _ hu hstep => (step_params_eq hstep).trans hu) rfl hrun
  subst hparams
  exact ⟨hinv.posIn_le, hinv.inLen_le, hinv.outSize_le, hinv.posOut_le, fun _ => hinv.length_fits, hinv.cause_zero_iff⟩

/-! ### Who writes each element -/

/-- Settles O43: each kind of effect changes the elements of its own instruction alone. -/
theorem writersOfEachElement : Obligations.WritersOfEachElement := by
  intro i s t h hne
  cases exec_effect h with
  | faulted | ignored | returned => simp
  | sym | esc => simp [Instr.agent]
  | finForced | fin => simp [Instr.agent]
  | wrZt | wrLen | wrSym | loadTable => simp
  | start => simp
  | wrIn | wrOut => simp
  | reset => exact absurd rfl hne

/-! ### A symbol word's padding -/

/-- The first `n` bytes of two words that agree on each of them. -/
theorem symbolBytes_congr {w w' : SymWord} {n : Nat} (h : ∀ j, j < n → byteOf w j = byteOf w' j) :
    symbolBytes w n = symbolBytes w' n :=
  List.map_congr_left fun j hj => h j (List.mem_range.1 hj)

/-- An enabled SYM of a written entry (40 R102): BAD_LENGTH for a length outside 1..8, else the symbol's bytes go out. -/
theorem exec_sym_of_entry {code : Fin Config.nCodes} {n : Byte} {w : SymWord} {s : State} (hr : s.UnitReady)
    (hn : s.len[code.val] = some n) (hw : s.sym[code.val] = some w) :
    exec (.sym code) s = .next (if n.toNat < 1 ∨ 8 < n.toNat then s.faulted .badLength
      else s.emitted (symbolBytes w n.toNat) 1) := by
  change execSym code s = _
  rw [execSym, whenUnit_ready hr.running hr.not_ended hr.fits, hn, hw]
  dsimp only
  split <;> rfl

/-- Settles O19: SYM reads of its word only the first LEN[code] bytes, on which the two words agree. -/
theorem paddingHasNoEffect : Obligations.PaddingHasNoEffect := by
  intro code n w w' s hr hn hw hagree
  have hbytes : symbolBytes w n.toNat = symbolBytes w' n.toNat := symbolBytes_congr hagree
  have hr' : State.UnitReady { s with sym := s.sym.set code.val (some w') } := ⟨hr.running, hr.not_ended, hr.fits⟩
  refine ⟨_, exec_sym_of_entry hr hn hw, ?_⟩
  rw [exec_sym_of_entry hr' hn (Vector.getElem_set_self _), hbytes]
  split <;> rfl

/-! ### What RESET keeps -/

/-- Settles O39: the restored state takes the parameters, the turns, the answer and the draws from the state before. -/
theorem resetKeepsWhatIsNoElement : Obligations.ResetKeepsWhatIsNoElement := by
  intro s t h
  obtain rfl : t = s.restored := execReset_next h
  exact ⟨rfl, rfl, rfl, rfl⟩

end Sys2Proof.Machine
end

section
/-! Proofs for spec/20_memory.md: a symbol word on a byte-addressed bus (R53), the reads (R57), and the steps that are refused (R59). -/

namespace Sys2Proof.Machine

/-! ### A symbol word on a byte-addressed bus -/

/-- Offset `j` of a word's transfer holds byte `j` of the word (20 R53). -/
theorem getElem_busBytes (w : SymWord) (j : Fin 8) : (busBytes w)[j.val] = byteOf w j.val := by
  fin_cases j <;> rfl

/-- Byte `j` of the word carried by a transfer is the byte at offset `j`: each append skips the byte below it. -/
theorem byteOf_wordOfBusBytes (bs : Vector Byte 8) (j : Fin 8) : byteOf (wordOfBusBytes bs) j.val = bs[j.val] := by
  change BitVec.extractLsb' (n := 8 + 8 + 8 + 8 + 8 + 8 + 8 + 8) (8 * j.val) 8 (_ ++ _) = _
  fin_cases j <;>
    simp only [BitVec.extractLsb'_append_eq_of_le, BitVec.extractLsb'_append_eq_right, BitVec.extractLsb'_eq_self,
      Nat.reduceMul, Nat.reduceLeDiff, Nat.reduceSub]

/-- Two symbol words with the same eight bytes are equal: bit `i` is bit `i % 8` of byte `i / 8`. -/
theorem eq_of_byteOf_eq {w w' : SymWord} (h : ∀ j : Fin 8, byteOf w j.val = byteOf w' j.val) : w = w' := by
  apply BitVec.eq_of_getLsbD_eq
  intro i hi
  have hbit := congrArg (·.getLsbD (i % 8)) (h ⟨i / 8, by omega⟩)
  simpa [byteOf, Nat.mod_lt, Nat.div_add_mod] using hbit

/-- A word transferred out and in again has the same bytes, so it is the same word. -/
theorem wordOfBusBytes_busBytes (w : SymWord) : wordOfBusBytes (busBytes w) = w :=
  eq_of_byteOf_eq fun j => (byteOf_wordOfBusBytes _ j).trans (getElem_busBytes w j)

/-- Settles O25: the byte order of the two transfers, and the round trip that follows from it. -/
theorem busByteOrder : Obligations.BusByteOrder :=
  ⟨getElem_busBytes, byteOf_wordOfBusBytes, wordOfBusBytes_busBytes⟩

/-! ### The reads -/

/-- A read action raises no fault but BAD_HOST_OPERAND (60 R160). -/
theorem eq_badHostOperand_of_mem_causesOf_read {i : Instr} {c : Cause} (hr : isRead i = true) (hc : c ∈ causesOf i) :
    c = .badHostOperand := by
  cases i with
  | rdIn | rdOut | rdLen | rdSym => simpa [causesOf] using hc
  | rdZt | rdStatus | rdCursors | rdResult => simp [causesOf] at hc
  | _ => simp [isRead] at hr

/-- Settles O37: of the kinds of effect a read action has only the return and its fault. -/
theorem readsHaveNoSideEffect : Obligations.ReadsHaveNoSideEffect := by
  intro i s t hr h
  cases exec_effect h with
  | faulted _ c hs hc =>
    obtain rfl := eq_badHostOperand_of_mem_causesOf_read hr hc
    exact .inr ⟨hs, rfl⟩
  | returned _ v any =>
    obtain ⟨x, d, e⟩ := s.answered_eq v any
    rw [e]
    exact .inl rfl
  | ignored _ _ _ hn => simp [hr] at hn
  | _ => simp [isRead] at hr

/-! ### The steps that are refused -/

/-- A state that lies outside the spec has no step but the refusal (20 R59, 93 O10 to O12). -/
theorem step_of_outsideSpec {s : State} {r : Refusal} (h : outsideSpec s = some r) : step s = .refused r := by
  simp [step, machineStep, h]

/-- Parameters that break a constraint of 00 R7 are not legal. -/
theorem wellFormed_params_eq_false {p : Params}
    (h : p.wLen < 4 ∨ 2 ^ p.wLen - 1 < p.inCap ∨ 2 ^ p.wLen - 1 < p.outCap) : p.wellFormed = false := by
  rw [← Bool.not_eq_true, wellFormed_params_iff, Params.maxLen]
  omega

/-- Settles O14: each premise picks one branch of `outsideSpec`. -/
theorem refusesWhatLiesOutsideTheSpec : Obligations.RefusesWhatLiesOutsideTheSpec := by
  intro s
  refine ⟨fun hp => ?_, fun hw hb => ?_, fun hw hb => ?_, fun hw hb hc => ?_⟩ <;> apply step_of_outsideSpec
  · simp [outsideSpec, wellFormed_params_eq_false hp]
  · simp [outsideSpec, hw, hb]
  · simp [outsideSpec, hw, hb]
  · simp [outsideSpec, hw, hb, firstReservedCause, hc]

end Sys2Proof.Machine
end

section
/-! Proofs for spec/30_encoding.md: one unit's encoding (R81 to R86), the split of a stream (R87), listings (R91, R92), and the
model's placing of an instruction word. -/

namespace Sys2Proof.Machine

/-! ### One unit's encoding -/

/-- The units with an encoding: SYM in format S and ESC in format E (30 R81, R82). -/
theorem encode_eq_some {i : Instr} {e : List Byte} : encode i = some e ↔
    (∃ c : Fin Config.nCodes, i = .sym c ∧ e = [BitVec.ofNat 8 c.val]) ∨
      ∃ l : Byte, i = .esc l ∧ e = [Config.escapeMarker, l] := by
  cases i <;> simp [encode, eq_comm]

/-- Decoding undoes encoding, whatever follows (30 R83). -/
theorem decode_encode {i : Instr} {e : List Byte} (h : encode i = some e) (rest : List Byte) :
    decode (e ++ rest) = .ok (i, rest) := by
  obtain ⟨c, rfl, rfl⟩ | ⟨l, rfl, rfl⟩ := encode_eq_some.1 h
  · exact decode_sym c rest
  · exact decode_esc l rest

/-- Every byte sequence is empty, the lone escape marker, or begins with the encoding of a unit (30 R85, R86). -/
theorem stream_cases (bs : List Byte) :
    bs = [] ∨ bs = [Config.escapeMarker] ∨ ∃ i e rest, encode i = some e ∧ bs = e ++ rest := by
  match bs with
  | [] => exact .inl rfl
  | b :: rest =>
    right
    obtain ⟨c, rfl⟩ | rfl := byte_cases b
    · exact .inr ⟨.sym c, _, rest, rfl, rfl⟩
    · match rest with
      | [] => exact .inl rfl
      | l :: rest => exact .inr ⟨.esc l, _, rest, rfl, rfl⟩

/-- The decoder refuses nothing but the empty sequence and the lone escape marker (30 R86). -/
theorem exists_decode_eq_ok {bs : List Byte} (hne : bs ≠ []) (hlone : bs ≠ [Config.escapeMarker]) :
    ∃ r, decode bs = .ok r := by
  obtain h | h | ⟨i, e, rest, he, rfl⟩ := stream_cases bs
  · exact absurd h hne
  · exact absurd h hlone
  · exact ⟨_, decode_encode he rest⟩

/-- Settles O4: decoding undoes encoding. -/
theorem encodedUnitDecodes : Obligations.EncodedUnitDecodes :=
  fun _ _ rest h => decode_encode h rest

/-- Settles O5: of the three forms of a byte sequence, decode answers only the one that begins with a unit's encoding, and there
it answers that unit. -/
theorem decodedUnitEncodes : Obligations.DecodedUnitEncodes := by
  refine ⟨fun bs rest i h => ?_, fun bs => exists_decode_eq_ok⟩
  obtain rfl | rfl | ⟨j, e, rest', he, rfl⟩ := stream_cases bs
  · cases h
  · cases h
  · cases (decode_encode he rest').symm.trans h
    exact ⟨e, he, rfl⟩

/-! ### The split of a stream -/

/-- Parsing takes the unit encoded at the front and goes on after it (30 R87). -/
theorem parseStream_encode {i : Instr} {e : List Byte} (h : encode i = some e) (rest : List Byte) :
    parseStream (e ++ rest) = (parseStream rest).map (i :: ·) := by
  obtain ⟨c, rfl, rfl⟩ | ⟨l, rfl, rfl⟩ := encode_eq_some.1 h
  · exact parseStream_sym c rest
  · exact parseStream_esc l rest

theorem encodeStream_cons {i : Instr} {e : List Byte} (h : encode i = some e) (us : List Instr) :
    encodeStream (i :: us) = e ++ encodeStream us := by
  simp [encodeStream, h]

/-- Parsing takes the units encoded at the front, in their order, and goes on after them. -/
theorem parseStream_encodeStream_append {us : List Instr} (h : ∀ u ∈ us, encode u ≠ none) (rest : List Byte) :
    parseStream (encodeStream us ++ rest) = (parseStream rest).map (us ++ ·) := by
  induction us with
  | nil => simp [encodeStream]
  | cons u us ih =>
    obtain ⟨hu, hus⟩ := List.forall_mem_cons.1 h
    obtain ⟨e, he⟩ := Option.ne_none_iff_exists'.1 hu
    rw [encodeStream_cons he, List.append_assoc, parseStream_encode he, ih hus, Option.map_map]
    rfl

/-- A stream that is the encoding of a list of units parses into that list. -/
theorem parseStream_encodeStream {us : List Instr} (h : ∀ u ∈ us, encode u ≠ none) :
    parseStream (encodeStream us) = some us := by
  simpa using parseStream_encodeStream_append h []

/-- A stream of units that ends in a dangling escape has no parse (30 R86). -/
theorem parseStream_encodeStream_dangling {us : List Instr} (h : ∀ u ∈ us, encode u ≠ none) :
    parseStream (encodeStream us ++ [Config.escapeMarker]) = none := by
  rw [parseStream_encodeStream_append h, parseStream_dangling, Option.map_none]

/-- Every stream splits into units, or into units followed by a dangling escape (30 R87). -/
theorem exists_encodeStream (bs : List Byte) : ∃ us : List Instr, (∀ u ∈ us, encode u ≠ none) ∧
    (bs = encodeStream us ∨ bs = encodeStream us ++ [Config.escapeMarker]) := by
  induction hn : bs.length using Nat.strong_induction_on generalizing bs with
  | _ n ih =>
    obtain rfl | rfl | ⟨i, e, rest, he, rfl⟩ := stream_cases bs
    · exact ⟨[], List.forall_mem_nil _, .inl rfl⟩
    · exact ⟨[], List.forall_mem_nil _, .inr rfl⟩
    · have hpos : 0 < e.length := by obtain ⟨c, _, rfl⟩ | ⟨l, _, rfl⟩ := encode_eq_some.1 he <;> simp
      obtain ⟨us, hus, hrest⟩ := ih rest.length (by simp at hn; omega) rest rfl
      refine ⟨i :: us, List.forall_mem_cons.2 ⟨by simp [he], hus⟩, ?_⟩
      rw [encodeStream_cons he, List.append_assoc, List.append_cancel_left_eq, List.append_cancel_left_eq]
      exact hrest

/-- Settles O6: every stream is units, which the parse gives back, or units and a dangling escape, which has no parse. -/
theorem streamParsesUniquely : Obligations.StreamParsesUniquely := by
  refine ⟨fun us h => parseStream_encodeStream h, fun bs us h => ?_, fun bs => ⟨fun h => ?_, ?_⟩⟩
  · obtain ⟨vs, hvs, rfl | rfl⟩ := exists_encodeStream bs
    · cases (parseStream_encodeStream hvs).symm.trans h
      exact ⟨rfl, hvs⟩
    · cases (parseStream_encodeStream_dangling hvs).symm.trans h
  · obtain ⟨vs, hvs, rfl | rfl⟩ := exists_encodeStream bs
    · cases (parseStream_encodeStream hvs).symm.trans h
    · exact ⟨vs, hvs, rfl⟩
  · rintro ⟨us, hus, rfl⟩
    exact parseStream_encodeStream_dangling hus

/-! ### Listings -/

/-- A listing line's bytes are the encoding of the unit it stands for (30 R91, R92). -/
theorem encode_of_line_unit {l : Line} {u : Instr} (h : l.unit = some u) : encode u = some l.bytes := by
  cases l with
  | raw => cases h
  | sym | esc | lit | term => cases h; rfl

/-- Settles O7, by induction on the lines: each line's bytes parse into its unit. -/
theorem listingAssemblesToItsUnits : Obligations.ListingAssemblesToItsUnits := by
  intro lines
  induction lines with
  | nil =>
    rintro (_ | _) h
    · exact parseStream_nil
    · cases h
  | cons l lines ih =>
    rintro (_ | ⟨u, us⟩) h
    · cases h
    · obtain ⟨hl, hlines⟩ := List.cons_eq_cons.1 h
      calc parseStream (assemble (l :: lines))
        _ = (parseStream (assemble lines)).map (u :: ·) := parseStream_encode (encode_of_line_unit hl) _
        _ = some (u :: us) := by rw [ih us hlines, Option.map_some]

/-! ### The placing of an instruction word -/

/-- The word of no bits leaves nothing of the stream, where the engine takes FIN. -/
theorem fetch_withFetchWord_zero (s : State) (w : Nat) : fetch (s.withFetchWord 0 w) = .unit .fin :=
  fetch_end rfl

/-- The two bytes of a placed word are the bytes the engine sees of the unit, so it takes the unit they decode to. -/
theorem fetch_withFetchWord {s : State} {nbits w : Nat} {b l : Byte} {i : Instr} {rest : List Byte}
    (hword : wordBytes nbits w = [b, l]) (hi : decode [b, l] = .ok (i, rest)) :
    fetch (s.withFetchWord nbits w) = .unit i := by
  have hend : (s.withFetchWord nbits w).inLen = s.posIn + 2 := by simp [State.withFetchWord, placeWord, hword]
  have hpos : (s.withFetchWord nbits w).posIn = s.posIn := rfl
  have hcode : Memory.read (s.withFetchWord nbits w).imem s.posIn = some b := by
    simp [State.withFetchWord, placeWord, hword, Memory.read_place]
  have hbyte1 : Memory.read (s.withFetchWord nbits w).imem (s.posIn + 1) = some l := by
    simp [State.withFetchWord, placeWord, hword, Memory.read_place]
  have hlit : literalAt (s.withFetchWord nbits w) = some l := literalAt_eq_some.2 ⟨by omega, hbyte1⟩
  rw [fetch, if_neg (by omega), hpos, hcode]
  simp [unitBytes, hlit, hi]

/-- The engine takes from a placed word what the decoder reads from it. -/
theorem fetch_of_decodeTableWord (s : State) {nbits w : Nat} {i : Instr} (h : decodeTableWord nbits w = some i) :
    fetch (s.withFetchWord nbits w) = .unit i := by
  by_cases hn : nbits = 0
  · subst hn
    cases h
    exact fetch_withFetchWord_zero s w
  · obtain ⟨b, l, hword⟩ : ∃ b l, wordBytes nbits w = [b, l] := ⟨_, _, if_neg hn⟩
    obtain ⟨⟨j, rest⟩, hj⟩ := exists_decode_eq_ok (List.cons_ne_nil b [l]) (by simp)
    rw [decodeTableWord, hword, hj] at h
    cases h
    exact fetch_withFetchWord hword hj

/-- Settles O15: the placed state is one the spec covers, in which the engine moves. -/
theorem placedWordRunsNext : Obligations.PlacedWordRunsNext := by
  intro s nbits w i hlegal hbinding hi
  have hcovered : outsideSpec (s.withFetchWord nbits w) = none :=
    (outsideSpec_none _).2 ⟨hlegal, hbinding, Cause.none.code_lt⟩
  rw [step_of_silent hcovered rfl, engineStep, fetch_of_decodeTableWord s hi]

/-! ### Byte 0 -/

/-- A byte other than the escape marker is a table code, and the decoder answers SYM of it (30 R83, R84). -/
theorem exists_decode_sym {b : Byte} (h : b ≠ Config.escapeMarker) :
    ∃ c : Fin Config.nCodes, c.val = b.toNat ∧ ∀ rest, decode (b :: rest) = .ok (.sym c, rest) := by
  obtain ⟨c, rfl⟩ | rfl := byte_cases b
  · have hc : c.val < 256 := c.isLt.trans (by decide)
    exact ⟨c, by simp [Nat.mod_eq_of_lt hc], decode_sym c⟩
  · exact absurd rfl h

/-- Settles O1: the two formats. -/
theorem byteZeroSelectsFormat : Obligations.ByteZeroSelectsFormat := by
  refine ⟨decode_esc, fun b rest h => ?_⟩
  obtain ⟨c, hc, hdecode⟩ := exists_decode_sym h
  exact ⟨c, hc, hdecode rest⟩

/-- ESC's row matches the escape marker alone. -/
theorem escPattern_selects_iff (b : Byte) : escPattern.selects b = true ↔ b = Config.escapeMarker := by
  revert b; decide

/-- One of SYM's rows matches each table code, and none the escape marker. -/
theorem length_filter_symPatterns (b : Byte) :
    (symPatterns.filter fun r => r.selects b).length = if b = Config.escapeMarker then 0 else 1 := by
  revert b; decide

/-- Settles O2: the rows of the opcode map, and the two formats they select. -/
theorem opcodeMapCoversEveryByte : Obligations.OpcodeMapCoversEveryByte := fun b =>
  ⟨escPattern_selects_iff b, length_filter_symPatterns b, exists_decode_sym, fun h => h ▸ decode_esc⟩

/-- Settles O3: the words are closed, and the decoder computes. -/
theorem writtenOutWordsDecode : Obligations.WrittenOutWordsDecode :=
  ⟨rfl, rfl, rfl, rfl, rfl, rfl, rfl⟩

end Sys2Proof.Machine
end

section
/-! Proofs for spec/40_stream_units.md: what the engine takes and does in one step (R100 to R105, R109), and the laws of a run
(R107, R110, R111, R115 to R117). -/

namespace Sys2Proof.Machine

/-! ### What SYM, ESC and FIN answer -/

/-- The entry of a code byte is that of the register file at the code's index. -/
theorem entryAt_ofNat {α : Type} (file : Vector (Option α) Config.nCodes) (c : Fin Config.nCodes) :
    entryAt file (BitVec.ofNat 8 c.val) = file[c.val] := by
  have hc : c.val < 255 := c.isLt
  have hval : (BitVec.ofNat 8 c.val).toNat = c.val := by simp; omega
  simp [entryAt, hval]

/-- An enabled SYM of a ⊥ entry (40 R102). -/
theorem exec_sym_of_unwritten {code : Fin Config.nCodes} {s : State} (hr : s.UnitReady)
    (h : s.len[code.val] = none ∨ s.sym[code.val] = none) :
    exec (.sym code) s = .next (s.faulted .unwrittenEntry) := by
  change execSym code s = _
  rw [execSym, whenUnit_ready hr.running hr.not_ended hr.fits]
  split
  · simp_all
  · rfl

/-- An enabled ESC with a literal to read (40 R103). -/
theorem exec_esc_of_literal {l : Byte} {s : State} (hr : s.UnitReady) (hl : literalAt s = some l) (lit : Byte) :
    exec (.esc lit) s = .next (s.emitted [lit] 2) := by
  change execEsc lit s = _
  rw [execEsc, whenUnit_ready hr.running hr.not_ended hr.fits, hl]

/-- ESC with no literal raises its fault, whatever its operand (40 R103). -/
theorem exec_esc_of_lack {s : State} (hl : literalAt s = none) (lit : Byte) :
    exec (.esc lit) s = whenUnit s (raise (literalLack s) s) := by
  change execEsc lit s = _
  rw [execEsc, hl]

/-- OMEM after FIN: the terminator at OUT_SIZE - 1 where it is forced (40 R104). -/
def State.closedOmem (s : State) : Memory :=
  if terminatorForced (ztRead s) s then Memory.write s.omem (s.outSize - 1) Config.terminator else s.omem

/-- The state after FIN (40 R104). -/
def State.closed (s : State) : State :=
  State.afterZtRead { s with omem := s.closedOmem, result := s.posOut, status := .done }

/-- An enabled FIN (40 R104). -/
theorem exec_fin {s : State} (hr : s.EndReady) : exec .fin s = .next s.closed := by
  change execFin s = _
  rw [execFin, whenEnd_ready hr.running hr.ended hr.fits, State.closed, State.closedOmem]
  split <;> rfl

/-- With ZT written FIN reads no free bit. -/
theorem State.closed_of_written {s : State} (hz : s.zt ≠ none) :
    s.closed = { s with omem := s.closedOmem, result := s.posOut, status := .done } := by
  obtain ⟨z, hz⟩ := Option.ne_none_iff_exists'.1 hz
  exact State.afterZtRead_of_written (v := z) hz

/-- When the terminator is forced (40 R104). -/
theorem terminatorForced_iff (z : Bool) (s : State) :
    terminatorForced z s = true ↔ 0 < s.outSize ∧ s.outSize ≤ s.posOut ∧ z = true := by
  simp [terminatorForced, and_assoc]

/-- The terminator is forced where the logical length has reached OUT_SIZE (40 R104, R110). -/
theorem forcedAt_iff {s : State} (hz : s.zt ≠ none) (a : Nat) :
    s.forcedAt s.posOut a ↔ terminatorForced (ztRead s) s = true ∧ a = s.outSize - 1 := by
  obtain ⟨z, hz⟩ := Option.ne_none_iff_exists'.1 hz
  rw [terminatorForced_iff, State.forcedAt, ztRead, hz, Option.some_inj]
  tauto

theorem read_closedOmem (s : State) (a : Nat) : Memory.read s.closedOmem a =
    if terminatorForced (ztRead s) s = true ∧ a = s.outSize - 1 then some Config.terminator else Memory.read s.omem a := by
  unfold State.closedOmem
  split <;> simp_all [Memory.read_write]

theorem read_closedOmem_of_forcedAt {s : State} {a : Nat} (hz : s.zt ≠ none) (h : s.forcedAt s.posOut a) :
    Memory.read s.closedOmem a = some Config.terminator := by
  rw [read_closedOmem, if_pos ((forcedAt_iff hz a).1 h)]

theorem read_closedOmem_of_not_forcedAt {s : State} {a : Nat} (hz : s.zt ≠ none) (h : ¬ s.forcedAt s.posOut a) :
    Memory.read s.closedOmem a = Memory.read s.omem a := by
  rw [read_closedOmem, if_neg (mt (forcedAt_iff hz a).2 h)]

/-- FIN writes inside the bytes that the run has put out. -/
theorem read_closedOmem_of_not_below {s : State} {a : Nat} (h : ¬ (a < s.posOut ∧ a < s.outSize)) :
    Memory.read s.closedOmem a = Memory.read s.omem a := by
  rw [read_closedOmem, if_neg]
  rw [terminatorForced_iff]
  omega

/-- Settles O16: the two equations of SYM, and the clamped write of the symbol's bytes. -/
theorem symUnit : Obligations.SymUnit := by
  intro code s hr
  refine ⟨fun n w hn hw h1 h8 => ?_, fun h => exec_sym_of_unwritten hr h, fun n w hn hw h => ?_⟩
  · have hexec : exec (.sym code) s = .next (s.emitted (symbolBytes w n.toNat) 1) := by
      rw [exec_sym_of_entry hr hn hw, if_neg (by omega)]
    refine ⟨_, hexec, ?_, fun j hj hbelow => ?_, fun a ha => ?_⟩
    · simp [State.emitted]
    · rw [State.emitted_omem, Memory.read_emit, symbolBytes_length, if_pos (by omega), Nat.add_sub_cancel_left,
        symbolBytes_getElem?, if_pos hj]
      rfl
    · rw [State.emitted_omem, Memory.read_emit, symbolBytes_length, if_neg ha]
  · rw [exec_sym_of_entry hr hn hw, if_pos h]
    rfl

/-- Settles O17: ESC with its literal is a clamped write of one byte, and without it a fault. -/
theorem escUnit : Obligations.EscUnit := by
  intro lit s hr
  have hlack (hl : literalAt s = none) : exec (.esc lit) s = .next (s.faulted (literalLack s)) :=
    (exec_esc_of_lack hl lit).trans (whenUnit_ready hr.running hr.not_ended hr.fits _)
  refine ⟨fun hin hlit => ?_, fun hlast => ?_, fun hin hlit => ?_⟩
  · refine ⟨_, exec_esc_of_literal hr (literalAt_eq_some.2 ⟨hin, hlit⟩) lit, rfl, fun hbelow => ?_, fun a ha => ?_⟩
    · simp [Memory.read_emit, hbelow]
    · rw [State.emitted_omem, Memory.read_emit, if_neg]
      simp only [List.length_singleton]
      omega
  · rw [hlack (by simp [literalAt, hlast]), literalLack, if_pos hlast]
    rfl
  · rw [hlack (by simp [literalAt, hin, hlit]), literalLack, if_neg hin]
    rfl

/-- Settles O18: FIN's state, and where its one byte is forced. -/
theorem finStep : Obligations.FinStep := by
  intro s z hr hz
  have hwritten : s.zt ≠ none := by simp [hz]
  refine ⟨_, (exec_fin hr).trans (by rw [State.closed_of_written hwritten]), rfl, ?_, fun a ha => ?_⟩
  · rintro rfl hout hpos
    exact read_closedOmem_of_forcedAt hwritten ⟨hz, hout, hpos, rfl⟩
  · refine read_closedOmem_of_not_forcedAt hwritten ?_
    rintro ⟨htrue, hout, hpos, rfl⟩
    exact ha ⟨Option.some_inj.1 (hz.symm.trans htrue), hout, hpos, rfl⟩

/-! ### What one engine step does -/

/-- What an engine step does with the state. -/
inductive Move where
  /-- The run ends in DONE. -/
  | close
  /-- A unit's bytes go out, and the cursors advance. -/
  | emit (bytes : List Byte) (consumed : Nat)
  /-- A fault is raised. -/
  | fault (c : Cause)

/-- The state after a move. -/
def State.moved (s : State) : Move → State
  | .close => s.closed
  | .emit bytes consumed => s.emitted bytes consumed
  | .fault c => s.faulted c

/-- SYM's move, by its entry (40 R102). -/
def symMove : Option Byte → Option SymWord → Move
  | some n, some w => if n.toNat < 1 ∨ 8 < n.toNat then .fault .badLength else .emit (symbolBytes w n.toNat) 1
  | _, _ => .fault .unwrittenEntry

/-- SYM takes one byte from the stream. -/
theorem symMove_eq_emit {n : Option Byte} {w : Option SymWord} {bs : List Byte} {k : Nat}
    (h : symMove n w = .emit bs k) : k = 1 := by
  unfold symMove at h
  split at h
  · split at h
    · cases h
    · cases h
      rfl
  · cases h

/-- The move of a unit, or of FIN; the host's actions, which the engine never takes, stand with FIN. -/
def unitMove (s : State) : Instr → Move
  | .sym c => symMove s.len[c.val] s.sym[c.val]
  | .esc l => .emit [l] 2
  | _ => .close

/-- The move of the engine's next step. -/
def engineMove (s : State) : Move :=
  match fetch s with
  | .unit i => unitMove s i
  | .raises c => .fault c

theorem engineMove_of_unit {s : State} {i : Instr} (h : fetch s = .unit i) : engineMove s = unitMove s i := by
  rw [engineMove, h]

theorem engineMove_of_raises {s : State} {c : Cause} (h : fetch s = .raises c) : engineMove s = .fault c := by
  rw [engineMove, h]

/-- An enabled SYM makes its move. -/
theorem exec_sym {code : Fin Config.nCodes} {s : State} (hr : s.UnitReady) :
    exec (.sym code) s = .next (s.moved (symMove s.len[code.val] s.sym[code.val])) := by
  cases hn : s.len[code.val] with
  | none => exact exec_sym_of_unwritten hr (.inl hn)
  | some n =>
    cases hw : s.sym[code.val] with
    | none => exact exec_sym_of_unwritten hr (.inr hw)
    | some w =>
      rw [exec_sym_of_entry hr hn hw, symMove]
      split <;> rfl

/-- In RUN the engine makes its move (40 R100, R101). -/
theorem engineStep_of_run {s : State} (hrun : s.status = .run) (hfits : s.windowsFit) :
    engineStep s = .next (s.moved (engineMove s)) := by
  rw [engineStep]
  obtain ⟨hend, hf⟩ | ⟨hne, hunit⟩ := fetch_cases s
  · rw [engineMove_of_unit hf, hf]
    exact exec_fin ⟨hrun, hend, hfits⟩
  · have hr : s.UnitReady := ⟨hrun, hne, hfits⟩
    obtain ⟨c, hf, -⟩ | ⟨l, hf, -, hl⟩ | ⟨c, hf, -⟩ := hunit
    · rw [engineMove_of_unit hf, hf]
      exact exec_sym hr
    · rw [engineMove_of_unit hf, hf]
      exact exec_esc_of_literal hr hl l
    · rw [engineMove_of_raises hf, hf]
      exact whenUnit_ready hrun hne hfits _

/-- An engine step that answers a next state is the engine's move, in RUN. -/
theorem engineStep_eq_next {s t : State} (h : engineStep s = .next t) :
    s.status = .run ∧ s.windowsFit ∧ t = s.moved (engineMove s) := by
  obtain ⟨⟨hrun, hfits⟩, -⟩ := engineStep_next h
  rw [engineStep_of_run hrun hfits] at h
  injection h with h
  exact ⟨hrun, hfits, h.symm⟩

/-- Outside RUN the engine has no step (40 R100). -/
theorem engineStep_of_not_run {s : State} (h : s.status ≠ .run) : engineStep s = .fault .noMove := by
  rw [engineStep]
  obtain ⟨-, hf⟩ | ⟨-, ⟨c, hf, -⟩ | ⟨l, hf, -⟩ | ⟨c, hf, -⟩⟩ := fetch_cases s <;> rw [hf]
  · exact whenEnd_not_running h _
  · exact whenUnit_not_running h _
  · exact whenUnit_not_running h _
  · exact whenUnit_not_running h _

/-- The bytes that a move takes from the stream are those of the unit at POS_IN, inside the stream. -/
theorem engineMove_eq_emit {s : State} {bs : List Byte} {k : Nat} (h : engineMove s = .emit bs k) : s.posIn ≠ s.inLen ∧
    ((k = 1 ∧ ∃ c : Fin Config.nCodes, Memory.read s.imem s.posIn = some (BitVec.ofNat 8 c.val)) ∨
      (k = 2 ∧ s.posIn + 1 ≠ s.inLen ∧ Memory.read s.imem s.posIn = some Config.escapeMarker)) := by
  obtain ⟨-, hf⟩ | ⟨hne, ⟨c, hf, hcode⟩ | ⟨l, hf, hmark, hl⟩ | ⟨c, hf, -⟩⟩ := fetch_cases s
  · cases (engineMove_of_unit hf).symm.trans h
  · exact ⟨hne, .inl ⟨symMove_eq_emit ((engineMove_of_unit hf).symm.trans h), c, hcode⟩⟩
  · cases (engineMove_of_unit hf).symm.trans h
    exact ⟨hne, .inr ⟨rfl, (literalAt_eq_some.1 hl).1, hmark⟩⟩
  · cases (engineMove_of_raises hf).symm.trans h

@[simp] theorem State.moved_zt (s : State) (m : Move) : (s.moved m).zt = s.zt := by
  cases m <;> simp [State.moved, State.closed]
@[simp] theorem State.moved_len (s : State) (m : Move) : (s.moved m).len = s.len := by
  cases m <;> simp [State.moved, State.closed]
@[simp] theorem State.moved_sym (s : State) (m : Move) : (s.moved m).sym = s.sym := by
  cases m <;> simp [State.moved, State.closed]
@[simp] theorem State.moved_inLen (s : State) (m : Move) : (s.moved m).inLen = s.inLen := by
  cases m <;> simp [State.moved, State.closed]
@[simp] theorem State.moved_outSize (s : State) (m : Move) : (s.moved m).outSize = s.outSize := by
  cases m <;> simp [State.moved, State.closed]
@[simp] theorem State.moved_imem (s : State) (m : Move) : (s.moved m).imem = s.imem := by
  cases m <;> simp [State.moved, State.closed]
@[simp] theorem State.moved_turns (s : State) (m : Move) : (s.moved m).turns = s.turns := by
  cases m <;> simp [State.moved, State.closed]

@[simp] theorem State.closed_status (s : State) : s.closed.status = .done := by simp [State.closed]
@[simp] theorem State.closed_posIn (s : State) : s.closed.posIn = s.posIn := by simp [State.closed]
@[simp] theorem State.closed_posOut (s : State) : s.closed.posOut = s.posOut := by simp [State.closed]
@[simp] theorem State.closed_omem (s : State) : s.closed.omem = s.closedOmem := by simp [State.closed]

/-- Settles O10: the engine's move advances (a unit), finishes (FIN) or faults. -/
theorem engineStepsExactlyInRun : Obligations.EngineStepsExactlyInRun := by
  intro s hfits
  refine ⟨⟨fun ⟨t, h⟩ => (engineStep_eq_next h).1, fun hrun => ⟨_, engineStep_of_run hrun hfits⟩⟩,
    engineStep_of_not_run, fun t h => ?_⟩
  obtain ⟨hrun, -, rfl⟩ := engineStep_eq_next h
  cases hm : engineMove s with
  | close => exact .inr (.inl s.closed_status)
  | emit bs k =>
    obtain ⟨-, hk⟩ := engineMove_eq_emit hm
    refine .inl ⟨hrun, ?_⟩
    simp only [State.moved, State.emitted_posIn]
    omega
  | fault c => exact .inr (.inr rfl)

/-- Settles O20: the bytes each move writes. -/
theorem engineWriteBounds : Obligations.EngineWriteBounds := by
  intro s t h
  obtain ⟨-, -, rfl⟩ := engineStep_eq_next h
  refine ⟨s.moved_imem _, s.moved_zt _, s.moved_len _, s.moved_sym _, s.moved_inLen _, s.moved_outSize _, ?_⟩
  cases engineMove s with
  | close =>
    refine ⟨fun a ha => ?_, fun a _ hne => ?_⟩
    · exact s.closed_omem ▸ read_closedOmem_of_not_below (by omega)
    · simp only [State.moved, State.closed_status, State.closed_omem, true_and] at hne ⊢
      rw [read_closedOmem, if_neg]
      rw [terminatorForced_iff]
      omega
  | emit bs k =>
    simp only [State.moved, State.emitted_omem, State.emitted_posOut, Memory.read_emit]
    exact ⟨fun a ha => if_neg (by omega), fun a ha _ => if_neg (by omega)⟩
  | fault c => exact ⟨fun _ _ => rfl, fun _ _ _ => rfl⟩

/-- Settles O44: of the kinds of effect SYM, ESC, START and RESET move POS_IN, and of the engine's moves a unit's. -/
theorem noControlTransfer : Obligations.NoControlTransfer := by
  refine ⟨fun i s t h hne => ?_, fun s t h => ?_⟩
  · cases exec_effect h with
    | sym c => exact .inl ⟨c, rfl, rfl⟩
    | esc l => exact .inr (.inl ⟨l, rfl, rfl⟩)
    | start m n => exact .inr (.inr (.inl ⟨m, n, rfl, rfl⟩))
    | reset => exact .inr (.inr (.inr ⟨rfl, rfl⟩))
    | _ => simp at hne
  · obtain ⟨-, -, rfl⟩ := engineStep_eq_next h
    cases hm : engineMove s with
    | close => exact .inl s.closed_posIn
    | emit bs k =>
      obtain ⟨-, hk⟩ := engineMove_eq_emit hm
      simp only [State.moved, State.emitted_posIn]
      omega
    | fault c => exact .inl rfl

/-! ### The unit at POS_IN -/

/-- The bytes stand at POS_IN, inside the stream (40 R101). -/
def State.BytesAhead (s : State) (bs : List Byte) : Prop :=
  s.posIn + bs.length ≤ s.inLen ∧ ∀ j, j < bs.length → Memory.read s.imem (s.posIn + j) = bs[j]?

/-- The engine takes the unit whose encoding stands at POS_IN (40 R101). -/
theorem fetch_of_bytesAhead {s : State} {i : Instr} {e : List Byte} (h : s.BytesAhead e) (he : encode i = some e) :
    fetch s = .unit i := by
  obtain ⟨hlen, hread⟩ := h
  obtain ⟨c, rfl, rfl⟩ | ⟨l, rfl, rfl⟩ := encode_eq_some.1 he
  · rw [List.length_singleton] at hlen hread
    exact fetch_sym (by omega) (hread 0 (by omega))
  · simp only [List.length_cons, List.length_nil] at hlen hread
    exact fetch_esc (by omega) (hread 0 (by omega)) (literalAt_eq_some.2 ⟨by omega, hread 1 (by omega)⟩)

/-- Settles O8: bytes that decode with nothing left over are the unit's encoding, so the engine takes that unit. -/
theorem stepRunsTheDecodedUnit : Obligations.StepRunsTheDecodedUnit := by
  intro s bs i hcovered hlen hread hdecode
  obtain ⟨e, he, rfl⟩ := decodedUnitEncodes.1 bs [] i hdecode
  rw [List.append_nil] at hlen hread
  have hstep {u : State} (hu : u.BytesAhead e) : engineStep u = exec i u := by
    rw [engineStep, fetch_of_bytesAhead hu he]
  refine ⟨fun hturns => ?_, fun rest hturns => ?_⟩
  · exact (step_of_silent hcovered hturns).trans (hstep ⟨hlen, hread⟩)
  · exact (step_of_engine hcovered hturns).trans (hstep ⟨hlen, hread⟩)

/-- Settles O9: the branches of the fetch; where an escape has no literal, the fetch raises what ESC raises. -/
theorem engineDispatch : Obligations.EngineDispatch := by
  intro s hcovered hrun hfits hturns
  rw [step_of_silent hcovered hturns, engineStep]
  refine ⟨fun hend => ?_, fun hne hb => ?_, fun code hne hb => ?_, fun lit hne hb hlit => ?_⟩
  · rw [fetch_end hend]
  · rw [fetch_unwritten hne hb]
    exact whenUnit_ready hrun hne hfits _
  · rw [fetch_sym hne hb]
  · cases hl : literalAt s with
    | none => rw [fetch_lack hne hb hl, exec_esc_of_lack hl]
    | some l =>
      rw [fetch_esc hne hb hl]
      obtain ⟨hin, hread⟩ := literalAt_eq_some.1 hl
      have hsame : l = lit := by simpa [hin, hread] using hlit
      rw [hsame]

/-! ### A run with the engine moving alone -/

/-- The engine moves alone in a run that the spec covers, whose windows lie in the stores. -/
structure State.Alone (s : State) : Prop where
  covered : outsideSpec s = none
  silent : s.turns = []
  running : s.status = .run
  fits : s.windowsFit

/-- A state in RUN that meets the invariant is one of these when the host is silent. -/
theorem State.Inv.alone {s : State} (h : s.Inv) (hb : s.params.binding = .atomicDisjoint) (hrun : s.status = .run)
    (hturns : s.turns = []) : s.Alone where
  covered := (outsideSpec_none s).2 ⟨h.params_legal, hb, h.cause_legal⟩
  silent := hturns
  running := hrun
  fits := ⟨h.inLen_le, h.outSize_le⟩

/-- A unit leaves the run going. -/
theorem State.Alone.emitted {s : State} (h : s.Alone) (bs : List Byte) (k : Nat) : (s.emitted bs k).Alone := { h with }

/-- The engine's move is the step. -/
theorem State.Alone.step_eq {s : State} (h : s.Alone) : step s = .next (s.moved (engineMove s)) := by
  rw [step_of_silent h.covered h.silent, engineStep_of_run h.running h.fits]

/-- A step with the host silent is the engine's move, in a run. -/
theorem step_eq_next_of_silent {s t : State} (hturns : s.turns = []) (h : step s = .next t) :
    s.Alone ∧ t = s.moved (engineMove s) := by
  have hcovered := (step_next h).1
  rw [step_of_silent hcovered hturns] at h
  obtain ⟨hrun, hfits, ht⟩ := engineStep_eq_next h
  exact ⟨⟨hcovered, hturns, hrun, hfits⟩, ht⟩

/-! ### A run ends -/

/-- A run ends within IN_LEN - POS_IN + 1 steps, by induction on the bytes left: a unit takes at least one of them, and every
other move ends the run. -/
theorem exists_ended_of_inv {s : State} (h : s.Inv) (hb : s.params.binding = .atomicDisjoint) (hrun : s.status = .run)
    (hturns : s.turns = []) : ∃ (k : Nat) (t : State), k ≤ s.inLen - s.posIn + 1 ∧ runFor k s = .next t ∧ t.Ended := by
  induction hn : s.inLen - s.posIn using Nat.strong_induction_on generalizing s with
  | _ n ih =>
    have hstep := (h.alone hb hrun hturns).step_eq
    cases hm : engineMove s with
    | close =>
      rw [hm] at hstep
      exact ⟨1, _, by omega, runFor_succ hstep, .inl s.closed_status⟩
    | fault c =>
      rw [hm] at hstep
      exact ⟨1, _, by omega, runFor_succ hstep, .inr rfl⟩
    | emit bs k =>
      rw [hm] at hstep
      obtain ⟨hne, hk⟩ := engineMove_eq_emit hm
      have hin := h.posIn_le
      obtain ⟨m, t, hle, hrest, hended⟩ := ih (s.inLen - (s.posIn + k)) (by omega)
        (everyStepKeepsTheInvariant _ _ h hstep) hb hrun hturns rfl
      exact ⟨m + 1, t, by omega, (runFor_succ hstep).trans hrest, hended⟩

/-- Settles O50: the engine's moves use up the stream, and in RUN a host action that does not fault is a read or RESET. -/
theorem runTerminates : Obligations.RunTerminates := by
  refine ⟨fun s => exists_ended_of_inv, fun i s t hhost hrun h hstay => ?_⟩
  cases exec_effect h with
  | returned _ v any =>
    obtain ⟨x, d, e⟩ := s.answered_eq v any
    rw [e]
  | faulted => cases hstay
  | ignored _ hs => simp [hrun] at hs
  | sym | esc | finForced | fin => cases hhost
  | wrZt _ hi | wrLen _ _ hi | wrSym _ _ hi | loadTable _ _ _ hi | start _ _ hi | wrIn _ _ hi | wrOut _ _ hi =>
    exact absurd hrun hi.2
  | reset => cases hstay

/-! ### What a run writes -/

/-- In a run begun with `m` in OMEM the offsets below min(POS_OUT, OUT_SIZE) are written, and every other one is as in `m`
(40 R111). -/
structure State.WroteOver (m : Memory) (s : State) : Prop where
  written : ∀ a, a < s.posOut → a < s.outSize → Memory.read s.omem a ≠ none
  kept : ∀ a, ¬ (a < s.posOut ∧ a < s.outSize) → Memory.read s.omem a = Memory.read m a

/-- Each move writes from POS_OUT on, or over a byte already written. -/
theorem State.WroteOver.moved {m : Memory} {s : State} (h : s.WroteOver m) (mv : Move) : (s.moved mv).WroteOver m := by
  cases mv with
  | fault c => exact { h with }
  | close =>
    refine ⟨fun a hp hs => ?_, fun a ha => ?_⟩
    · simp only [State.moved, State.closed_omem, State.closed_posOut] at hp ⊢
      rw [read_closedOmem]
      split
      · simp
      · exact h.written a hp (by simpa using hs)
    · rw [State.moved_outSize] at ha
      simp only [State.moved, State.closed_omem, State.closed_posOut] at ha ⊢
      exact (read_closedOmem_of_not_below ha).trans (h.kept a ha)
  | emit bs k =>
    refine ⟨fun a hp hs => ?_, fun a ha => ?_⟩
    · simp only [State.moved, State.emitted_omem, State.emitted_posOut, State.emitted_outSize, Memory.read_emit] at hp hs ⊢
      split
      · simp
        omega
      · exact h.written a (by omega) hs
    · simp only [State.moved, State.emitted_omem, State.emitted_posOut, State.emitted_outSize, Memory.read_emit] at ha ⊢
      rw [if_neg (by omega)]
      exact h.kept a (by omega)

/-- What a run writes, from its start and after any number of steps (40 R111). -/
theorem wroteOver_of_runFor {s t : State} {k : Nat} (hturns : s.turns = []) (hstart : s.posOut = 0)
    (hrun : runFor k s = .next t) : t.WroteOver s.omem ∧ t.outSize = s.outSize := by
  suffices h : t.turns = [] ∧ t.WroteOver s.omem ∧ t.outSize = s.outSize from h.2
  refine runFor_preserves (P := fun u => u.turns = [] ∧ u.WroteOver s.omem ∧ u.outSize = s.outSize)
    (fun u v ⟨hu, hw, hs⟩ hstep => ?_) ⟨hturns, ⟨by simp [hstart], fun _ _ => rfl⟩, rfl⟩ hrun
  obtain ⟨-, rfl⟩ := step_eq_next_of_silent hu hstep
  exact ⟨(u.moved_turns _).trans hu, hw.moved _, (u.moved_outSize _).trans hs⟩

/-- Settles O52: every step of the run keeps `WroteOver`. -/
theorem untouchedBytesSurvive : Obligations.UntouchedBytesSurvive := by
  intro s t k _ hturns _ hstart hrun
  obtain ⟨hwrote, hsize⟩ := wroteOver_of_runFor hturns hstart hrun
  rw [← hsize]
  exact ⟨hwrote.written, hwrote.kept⟩

/-! ### A well-formed run -/

/-- Bytes that go out one sequence after the other. -/
theorem Memory.emit_append (size : Nat) (xs ys : List Byte) (m : Memory) (a : Nat) :
    Memory.emit size m a (xs ++ ys) = Memory.emit size (Memory.emit size m a xs) (a + xs.length) ys := by
  induction xs generalizing m a with
  | nil => rfl
  | cons x xs ih =>
    rw [List.cons_append, Memory.emit, ih, Memory.emit, List.length_cons, Nat.add_assoc a 1, Nat.add_comm 1]

/-- Two units' effects are the effect of both units' bytes. -/
theorem State.emitted_emitted (s : State) (xs ys : List Byte) (j k : Nat) :
    (s.emitted xs j).emitted ys k = s.emitted (xs ++ ys) (j + k) := by
  simp [State.emitted, Memory.emit_append, Nat.add_assoc]

/-- Bytes ahead that come in two parts: the first part, and the second one once a unit has taken the first. -/
theorem State.BytesAhead.split {s : State} {xs ys : List Byte} (h : s.BytesAhead (xs ++ ys)) (bs : List Byte) :
    s.BytesAhead xs ∧ (s.emitted bs xs.length).BytesAhead ys := by
  obtain ⟨hlen, hread⟩ := h
  rw [List.length_append] at hlen hread
  refine ⟨⟨by omega, fun j hj => ?_⟩, ⟨?_, fun j hj => ?_⟩⟩
  · rw [hread j (by omega), List.getElem?_append_left hj]
  · simp only [State.emitted_posIn, State.emitted_inLen]
    omega
  · rw [State.emitted_imem, State.emitted_posIn, Nat.add_assoc, hread _ (by omega),
      List.getElem?_append_right (Nat.le_add_right _ _), Nat.add_sub_cancel_left]

/-- The expansion of SYM (40 section 4). -/
theorem expansion_sym_eq_some {s : State} {c : Fin Config.nCodes} {xs : List Byte} :
    s.expansion (.sym c) = some xs ↔ ∃ n w, s.len[c.val] = some n ∧ s.sym[c.val] = some w ∧
      (1 ≤ n.toNat ∧ n.toNat ≤ 8) ∧ symbolBytes w n.toNat = xs := by
  cases hn : s.len[c.val] <;> cases hw : s.sym[c.val] <;> simp [State.expansion, hn, hw]

/-- The move of a unit with an expansion puts the expansion out (40 section 4). -/
theorem unitMove_of_expansion {s : State} {u : Instr} {e xs : List Byte} (he : encode u = some e)
    (hx : s.expansion u = some xs) : unitMove s u = .emit xs e.length := by
  obtain ⟨c, rfl, rfl⟩ | ⟨l, rfl, rfl⟩ := encode_eq_some.1 he
  · obtain ⟨n, w, hn, hw, hlegal, rfl⟩ := expansion_sym_eq_some.1 hx
    rw [unitMove, hn, hw, symMove, if_neg (by omega)]
    rfl
  · cases hx
    rfl

/-- A unit leaves the table, and so every expansion. -/
theorem State.expand_emitted (s : State) (bs : List Byte) (k : Nat) (us : List Instr) :
    (s.emitted bs k).expand us = s.expand us := by
  have hexp (u : Instr) : (s.emitted bs k).expansion u = s.expansion u := by cases u <;> rfl
  induction us with
  | nil => rfl
  | cons u us ih => rw [State.expand, State.expand, hexp, ih]

theorem expand_cons_eq_some {s : State} {u : Instr} {us : List Instr} {out : List Byte} :
    s.expand (u :: us) = some out ↔ ∃ x xs, s.expansion u = some x ∧ s.expand us = some xs ∧ x ++ xs = out := by
  cases hx : s.expansion u <;> cases hxs : s.expand us <;> simp [State.expand, hx, hxs]

/-- The units ahead put out their expansions, a step each, by induction on the units. -/
theorem runFor_units {s : State} {us : List Instr} {out : List Byte} (h : s.Alone) (henc : ∀ u ∈ us, encode u ≠ none)
    (hahead : s.BytesAhead (encodeStream us)) (hexp : s.expand us = some out) (k : Nat) :
    runFor (us.length + k) s = runFor k (s.emitted out (encodeStream us).length) := by
  induction us generalizing s out with
  | nil =>
    cases hexp
    rw [List.length_nil, Nat.zero_add]
    rfl
  | cons u us ih =>
    obtain ⟨hu, hus⟩ := List.forall_mem_cons.1 henc
    obtain ⟨e, he⟩ := Option.ne_none_iff_exists'.1 hu
    obtain ⟨x, xs, hx, hxs, rfl⟩ := expand_cons_eq_some.1 hexp
    rw [encodeStream_cons he] at hahead ⊢
    obtain ⟨hfirst, hrest⟩ := hahead.split x
    have hstep : step s = .next (s.emitted x e.length) := by
      rw [h.step_eq, engineMove_of_unit (fetch_of_bytesAhead hfirst he), unitMove_of_expansion he hx]
      rfl
    calc runFor ((u :: us).length + k) s
      _ = runFor (us.length + k + 1) s := by rw [List.length_cons, Nat.add_right_comm]
      _ = runFor (us.length + k) (s.emitted x e.length) := runFor_succ hstep
      _ = runFor k ((s.emitted x e.length).emitted xs (encodeStream us).length) :=
        ih (h.emitted x e.length) hus hrest ((s.expand_emitted _ _ us).trans hxs)
      _ = runFor k (s.emitted (x ++ xs) (e ++ encodeStream us).length) := by
        rw [State.emitted_emitted, List.length_append]

/-- A unit takes at least one byte, so a stream has no more units than bytes. -/
theorem length_le_length_encodeStream {us : List Instr} (henc : ∀ u ∈ us, encode u ≠ none) :
    us.length ≤ (encodeStream us).length := by
  induction us with
  | nil => exact Nat.zero_le _
  | cons u us ih =>
    obtain ⟨hu, hus⟩ := List.forall_mem_cons.1 henc
    obtain ⟨e, he⟩ := Option.ne_none_iff_exists'.1 hu
    have hpos : 0 < e.length := by obtain ⟨c, _, rfl⟩ | ⟨l, _, rfl⟩ := encode_eq_some.1 he <;> simp
    have := ih hus
    rw [encodeStream_cons he, List.length_append, List.length_cons]
    omega

/-- A well-formed run puts out the decompressed string unit by unit and then performs FIN (40 R110). -/
theorem exists_runFor_of_decompresses {s : State} {out : List Byte} (h : s.Alone) (hstart : s.posIn = 0)
    (hout : s.Decompresses out) : ∃ k, k ≤ s.inLen + 1 ∧ runFor k s = .next (s.emitted out s.inLen).closed := by
  obtain ⟨bs, us, ⟨hlen, hread⟩, hparse, hexp⟩ := hout
  obtain ⟨rfl, henc⟩ := streamParsesUniquely.2.1 bs us hparse
  have hahead : s.BytesAhead (encodeStream us) :=
    ⟨by omega, fun j hj => by rw [hstart, Nat.zero_add, hread j (by omega)]⟩
  have hend : fetch (s.emitted out s.inLen) = .unit .fin :=
    fetch_end (by rw [State.emitted_posIn, State.emitted_inLen, hstart, Nat.zero_add])
  have hfin : step (s.emitted out s.inLen) = .next (s.emitted out s.inLen).closed := by
    rw [(h.emitted out s.inLen).step_eq, engineMove_of_unit hend]
    rfl
  refine ⟨us.length + 1, ?_, ?_⟩
  · have := length_le_length_encodeStream henc
    omega
  · rw [runFor_units h henc hahead hexp, hlen, runFor_succ hfin, runFor_zero]

/-- Settles O51: the run ends in FIN's state over the whole string, put out from offset 0. -/
theorem runDecompresses : Obligations.RunDecompresses := by
  intro s out h hb hrun hturns hin hpos hout
  obtain ⟨k, hk, hrunFor⟩ := exists_runFor_of_decompresses (h.alone hb hrun hturns) hin hout
  have hz : (s.emitted out s.inLen).zt ≠ none := h.zt_written (.inl hrun)
  have hlen : (s.emitted out s.inLen).posOut = out.length := by rw [State.emitted_posOut, hpos, Nat.zero_add]
  have hforced (i : Nat) : (s.emitted out s.inLen).forcedAt (s.emitted out s.inLen).posOut i ↔ s.forcedAt out.length i := by
    rw [hlen]
    rfl
  have hcause : s.cause = Cause.none.code := h.cause_zero_iff.2 (by simp [hrun])
  refine ⟨k, _, hk, hrunFor, ?_, ?_, fun i hi hsize hnot => ?_, fun i hi => ?_, fun i hi => ?_⟩
  · rw [State.closed_of_written hz]
    exact ⟨rfl, hcause⟩
  · rw [State.closed_of_written hz]
    simp [State.emitted, hin, hpos]
  · rw [State.closed_omem, read_closedOmem_of_not_forcedAt hz (mt (hforced i).1 hnot), State.emitted_omem,
      Memory.read_emit, if_pos (by omega), hpos, Nat.sub_zero]
  · rw [State.closed_omem, read_closedOmem_of_forcedAt hz ((hforced i).2 hi)]
  · obtain ⟨hwrote, hsize⟩ := wroteOver_of_runFor hturns hpos hrunFor
    refine hwrote.kept i ?_
    rwa [hsize, State.closed_posOut, hlen]

/-- Settles O56: the one byte that may be forced, the last, is the terminator already. -/
theorem roundTripFillsTheBuffer : Obligations.RoundTripFillsTheBuffer := by
  intro s out h hb hrun hturns hin hpos hout hsize hlast
  obtain ⟨k, t, -, hrunFor, hdone, hfinal, hbytes, hforced, -⟩ := runDecompresses s out h hb hrun hturns hin hpos hout
  refine ⟨k, t, hrunFor, hdone, by rw [hfinal], fun i hi => ?_⟩
  by_cases hf : s.forcedAt out.length i
  · rw [hforced i hf]
    obtain ⟨hzt, -, -, rfl⟩ := hf
    obtain hoff | hzero := hlast
    · simp [hzt] at hoff
    · rw [hsize, ← List.getLast?_eq_getElem?, hzero]
  · exact hbytes i hi (by omega) hf

/-! ### The empty stream -/

/-- An enabled START with legal operands (41 R135). -/
theorem exec_start {m n : Nat} {s : State} (hs : s.Writable) (hz : s.zt ≠ none) (hm : m ≤ s.params.inCap)
    (hn : n ≤ s.params.outCap) (hl : 8 * m ≤ s.params.maxLen) : exec (.start m n) s = .next (s.begun m n) := by
  change execStart m n s = _
  have hfault : s.status ≠ .fault := by obtain h | h := hs <;> simp [h]
  have hidle : s.status ≠ .run := by obtain h | h := hs <;> simp [h]
  rw [execStart, if_neg hfault, if_neg hidle, if_neg hz, if_neg (by omega), if_neg (by omega)]

/-- Settles O54: START, and then FIN, which forces no byte since no offset is below POS_OUT = 0. -/
theorem emptyInput : Obligations.EmptyInput := by
  intro s n hcovered hs hz hn hturns
  have hstart : step s = .next ((s.withTurns [.engine]).begun 0 n) := by
    rw [step_of_host hcovered hturns, hostStep_of_host rfl,
      exec_start (s := s.withTurns [.engine]) hs hz (Nat.zero_le _) hn (Nat.zero_le _)]
  have hfin : step ((s.withTurns [.engine]).begun 0 n) = .next ((s.withTurns []).begun 0 n).closed := by
    rw [step_of_engine (s := (s.withTurns [.engine]).begun 0 n) hcovered rfl, engineStep, fetch_end rfl]
    exact exec_fin (s := (s.withTurns []).begun 0 n) ⟨rfl, rfl, Nat.zero_le _, hn⟩
  refine ⟨_, (runFor_succ hstart).trans (runFor_succ hfin), State.closed_status _, ?_, fun a => ?_⟩
  · rw [State.closed_of_written (s := (s.withTurns []).begun 0 n) hz]
    rfl
  · rw [State.closed_omem]
    exact read_closedOmem_of_not_below (by simp)

/-! ### Two runs with equal data -/

/-- Two runs with equal data, at the same point: what the engine still reads of either is equal, and so is what it has done. -/
structure State.Alike (s t : State) : Prop where
  silent : s.turns = [] ∧ t.turns = []
  covered : outsideSpec t = none
  fits : t.windowsFit
  status_eq : t.status = s.status
  cause_eq : t.cause = s.cause
  posIn_eq : t.posIn = s.posIn
  posOut_eq : t.posOut = s.posOut
  inLen_eq : t.inLen = s.inLen
  outSize_eq : t.outSize = s.outSize
  zt_eq : t.zt = s.zt
  zt_written : s.zt ≠ none
  posIn_le : s.posIn ≤ s.inLen
  stream_eq : ∀ i, i < s.inLen → Memory.read t.imem i = Memory.read s.imem i
  entries_eq : ∀ (p : Nat) (c : Byte), p < s.inLen → s.UnitAt p → Memory.read s.imem p = some c →
    c ≠ Config.escapeMarker → entryAt t.len c = entryAt s.len c ∧ entryAt t.sym c = entryAt s.sym c
  result_eq : s.status = .done → t.result = s.result
  omem_eq : ∀ a, a < s.posOut → a < s.outSize → Memory.read t.omem a = Memory.read s.omem a

/-- Two states at the start of runs with equal data are alike: nothing is put out yet. -/
theorem State.SameRunData.alike {s t : State} (h : s.SameRunData t) (hs : s.turns = []) (ht : t.turns = [])
    (hcovered : outsideSpec t = none) (hfits : t.windowsFit) (hz : s.zt ≠ none) : s.Alike t := by
  obtain ⟨hin_s, hin_t, hout_s, hout_t⟩ := h.at_start
  exact {
    silent := ⟨hs, ht⟩
    covered := hcovered
    fits := hfits
    status_eq := h.running.2.trans h.running.1.symm
    cause_eq := h.no_cause.2.trans h.no_cause.1.symm
    posIn_eq := hin_t.trans hin_s.symm
    posOut_eq := hout_t.trans hout_s.symm
    inLen_eq := h.inLen_eq.symm
    outSize_eq := h.outSize_eq.symm
    zt_eq := h.zt_eq.symm
    zt_written := hz
    posIn_le := hin_s ▸ Nat.zero_le _
    stream_eq := fun i hi => (h.stream_eq i hi).symm
    entries_eq := fun p c hp hat hc hne => (h.entries_eq p c hp hat hc hne).imp Eq.symm Eq.symm
    result_eq := fun hdone => by simp [h.running.1] at hdone
    omem_eq := fun a ha => by omega }

/-- The engine takes the same from either. -/
theorem State.Alike.fetch_eq {s t : State} (h : s.Alike t) : fetch t = fetch s := by
  by_cases hend : s.posIn = s.inLen
  · rw [fetch_end hend, fetch_end (by rw [h.posIn_eq, h.inLen_eq, hend])]
  · have hin := h.posIn_le
    have hcode := h.stream_eq s.posIn (by omega)
    have hlit : literalAt t = literalAt s := by
      unfold literalAt
      rw [h.posIn_eq, h.inLen_eq]
      split
      · rfl
      · exact h.stream_eq _ (by omega)
    simp only [fetch, unitBytes, literalLack, h.posIn_eq, h.inLen_eq, hcode, hlit]

/-- The engine's move is the same in both. -/
theorem State.Alike.engineMove_eq {s t : State} (h : s.Alike t) : engineMove t = engineMove s := by
  obtain ⟨-, hf⟩ | ⟨hne, ⟨c, hf, hcode⟩ | ⟨l, hf, -⟩ | ⟨c, hf, -⟩⟩ := fetch_cases s
  · rw [engineMove_of_unit hf, engineMove_of_unit (h.fetch_eq.trans hf)]
    rfl
  · have hin := h.posIn_le
    obtain ⟨hlen, hsym⟩ := h.entries_eq s.posIn _ (by omega) .here hcode (code_ne_escape c)
    simp only [entryAt_ofNat] at hlen hsym
    rw [engineMove_of_unit hf, engineMove_of_unit (h.fetch_eq.trans hf), unitMove, unitMove, hlen, hsym]
  · rw [engineMove_of_unit hf, engineMove_of_unit (h.fetch_eq.trans hf)]
    rfl
  · rw [engineMove_of_raises hf, engineMove_of_raises (h.fetch_eq.trans hf)]

/-- A unit of the run from a later POS_IN on, where that starts a unit, is a unit of the run. -/
theorem State.UnitAt.of_later {s u : State} {p : Nat} (h : u.UnitAt p) (himem : u.imem = s.imem)
    (hlater : s.UnitAt u.posIn) : s.UnitAt p := by
  induction h with
  | here => exact hlater
  | afterSym _ hcode hne ih => exact .afterSym ih (himem ▸ hcode) hne
  | afterEsc _ hmark ih => exact .afterEsc ih (himem ▸ hmark)

/-- A unit ends where the next one starts. -/
theorem unitAt_of_engineMove {s : State} {bs : List Byte} {k : Nat} (h : engineMove s = .emit bs k) :
    s.UnitAt (s.posIn + k) := by
  obtain ⟨-, ⟨rfl, c, hcode⟩ | ⟨rfl, -, hmark⟩⟩ := engineMove_eq_emit h
  · exact .afterSym .here hcode (code_ne_escape c)
  · exact .afterEsc .here hmark

/-- A unit that both runs take keeps them alike. -/
theorem State.Alike.emitted {s t : State} (h : s.Alike t) {bs : List Byte} {k : Nat} (hm : engineMove s = .emit bs k) :
    (s.emitted bs k).Alike (t.emitted bs k) :=
  { h with
    posIn_eq := congrArg (· + k) h.posIn_eq
    posOut_eq := congrArg (· + bs.length) h.posOut_eq
    posIn_le := by
      obtain ⟨hne, hk⟩ := engineMove_eq_emit hm
      have hin := h.posIn_le
      simp only [State.emitted_posIn, State.emitted_inLen]
      omega
    entries_eq := fun p c hp hat => h.entries_eq p c hp (hat.of_later rfl (unitAt_of_engineMove hm))
    omem_eq := fun a hp hs => by
      simp only [State.emitted_posOut, State.emitted_outSize, State.emitted_omem, Memory.read_emit, h.posOut_eq,
        h.outSize_eq] at hp hs ⊢
      split
      · rfl
      · exact h.omem_eq a (by omega) hs }

/-- A fault that both runs take keeps them alike. -/
theorem State.Alike.faulted {s t : State} (h : s.Alike t) (c : Cause) : (s.faulted c).Alike (t.faulted c) :=
  { h with
    covered := by
      obtain ⟨hlegal, hb, -⟩ := (outsideSpec_none t).1 h.covered
      exact (outsideSpec_none _).2 ⟨hlegal, hb, c.code_lt⟩
    status_eq := rfl
    cause_eq := rfl
    entries_eq := fun p q hp hat => h.entries_eq p q hp (hat.of_later rfl .here)
    result_eq := nofun }

/-- FIN in both runs keeps them alike: the terminator is forced in both or in neither. -/
theorem State.Alike.closed {s t : State} (h : s.Alike t) : s.closed.Alike t.closed := by
  have hz : t.zt ≠ none := h.zt_eq ▸ h.zt_written
  rw [State.closed_of_written h.zt_written, State.closed_of_written hz]
  exact { h with
    status_eq := rfl
    entries_eq := fun p q hp hat => h.entries_eq p q hp (hat.of_later rfl .here)
    result_eq := fun _ => h.posOut_eq
    omem_eq := fun a hp hs => by
      have hforced : t.forcedAt t.posOut a ↔ s.forcedAt s.posOut a := by
        simp only [State.forcedAt, h.zt_eq, h.posOut_eq, h.outSize_eq]
      by_cases hf : s.forcedAt s.posOut a
      · exact (read_closedOmem_of_forcedAt hz (hforced.2 hf)).trans
          (read_closedOmem_of_forcedAt h.zt_written hf).symm
      · calc Memory.read t.closedOmem a
          _ = Memory.read t.omem a := read_closedOmem_of_not_forcedAt hz (mt hforced.1 hf)
          _ = Memory.read s.omem a := h.omem_eq a hp hs
          _ = Memory.read s.closedOmem a := (read_closedOmem_of_not_forcedAt h.zt_written hf).symm }

/-- A step that one takes the other takes, and they stay alike. -/
theorem State.Alike.exists_step {s t s' : State} (h : s.Alike t) (hstep : step s = .next s') :
    ∃ t', step t = .next t' ∧ s'.Alike t' := by
  obtain ⟨hs, rfl⟩ := step_eq_next_of_silent h.silent.1 hstep
  have ht : t.Alone := ⟨h.covered, h.silent.2, h.status_eq.trans hs.running, h.fits⟩
  refine ⟨_, ht.step_eq, ?_⟩
  rw [h.engineMove_eq]
  cases hm : engineMove s with
  | close => exact h.closed
  | emit bs k => exact h.emitted hm
  | fault c => exact h.faulted c

/-- Two alike states stay alike over any number of steps. -/
theorem State.Alike.exists_runFor {s t s' : State} {k : Nat} (h : s.Alike t) (hrun : runFor k s = .next s') :
    ∃ t', runFor k t = .next t' ∧ s'.Alike t' := by
  induction k generalizing s t with
  | zero =>
    rw [runFor_zero] at hrun
    injection hrun with e
    exact ⟨t, rfl, e ▸ h⟩
  | succ k ih =>
    obtain ⟨u, hu, hrest⟩ := runFor_succ_next hrun
    obtain ⟨v, hv, huv⟩ := h.exists_step hu
    obtain ⟨t', ht', halike⟩ := ih huv hrest
    exact ⟨t', (runFor_succ hv).trans ht', halike⟩

/-- Settles O53: the two runs stay alike, and each keeps the bytes it does not put out. -/
theorem runsAreDeterministic : Obligations.RunsAreDeterministic := by
  intro s t k s' hdata _ hfits _ hcovered hs ht hz hrun
  obtain ⟨t', hrun', h⟩ := (hdata.alike hs ht hcovered hfits hz).exists_runFor hrun
  obtain ⟨-, -, hout_s, hout_t⟩ := hdata.at_start
  obtain ⟨hwrote_s, hsize_s⟩ := wroteOver_of_runFor hs hout_s hrun
  obtain ⟨hwrote_t, -⟩ := wroteOver_of_runFor ht hout_t hrun'
  rw [← hsize_s]
  refine ⟨t', hrun', h.status_eq, h.cause_eq, h.posIn_eq, h.posOut_eq, h.result_eq, h.omem_eq, fun a ha => ?_⟩
  exact ⟨hwrote_s.kept a ha, hwrote_t.kept a (by rwa [h.posOut_eq, h.outSize_eq])⟩

end Sys2Proof.Machine
end

section
/-! Proofs for spec/41_host_actions.md: every action answers (R130), the table actions (R131 to R134), the buffer actions (R135 to
R137), the read actions (R138 to R145), and the recovery from a truncated run (R147). -/

namespace Sys2Proof.Machine

/-! ### What the host's checks answer -/

theorem State.Writable.not_fault {s : State} (h : s.Writable) : s.status ≠ .fault := by obtain h | h := h <;> simp [h]

theorem State.Writable.not_run {s : State} (h : s.Writable) : s.status ≠ .run := by obtain h | h := h <;> simp [h]

/-- The host may write, or the engine is running, or the machine has stopped with a fault (41 R130). -/
theorem writable_or_run_or_fault (s : State) : s.Writable ∨ s.status = .run ∨ s.status = .fault := by
  cases hs : s.status with
  | idle => exact .inl (.inl hs)
  | run => exact .inr (.inl rfl)
  | done => exact .inl (.inr hs)
  | fault => exact .inr (.inr rfl)

section
variable {ok : Bool} {busy : Cause} {s t : State}

/-- A write action with a legal operand in IDLE or DONE. -/
theorem hostWrite_of_writable (hok : ok = true) (hs : s.Writable) : hostWrite ok busy s t = .next t := by
  rw [hostWrite, if_neg hs.not_fault, if_neg (by simp [hok]), if_neg hs.not_run]

/-- The operand is checked before the run in progress. -/
theorem hostWrite_of_bad_operand (hok : ok = false) (hs : s.status ≠ .fault) :
    hostWrite ok busy s t = .next (s.faulted .badHostOperand) := by
  rw [hostWrite, if_neg hs, if_pos hok, raise]

/-- A write action with a legal operand in RUN. -/
theorem hostWrite_of_run (hok : ok = true) (hs : s.status = .run) : hostWrite ok busy s t = .next (s.faulted busy) := by
  rw [hostWrite, if_neg (by simp [hs]), if_neg (by simp [hok]), if_pos hs, raise]

/-- A write action has no effect in FAULT. -/
theorem hostWrite_of_fault (hs : s.status = .fault) : hostWrite ok busy s t = .next s := if_pos hs

/-- A write action answers a next state. -/
theorem exists_hostWrite_eq_next (ok : Bool) (busy : Cause) (s t : State) : ∃ u, hostWrite ok busy s t = .next u := by
  obtain ⟨-, h⟩ | ⟨-, -, h⟩ | ⟨-, -, h⟩ | ⟨-, -, -, h⟩ := hostWrite_cases ok busy s t <;> exact ⟨_, h⟩

end

section
variable {ok : Bool} {v : Option HostValue} {any : Nat → HostValue} {s : State}

/-- A read action with a legal operand returns the value there is. -/
theorem hostRead_of_some {x : HostValue} (hok : ok = true) (hv : v = some x) :
    hostRead ok v any s = .next { s with answer := some x } := by
  rw [hostRead, if_pos hok, hv, State.answered_some]

/-- A read action with a legal operand draws a free value where there is none. -/
theorem hostRead_of_none (hok : ok = true) (hv : v = none) :
    hostRead ok v any s = .next { s with answer := some (any s.draws), draws := s.draws + 1 } := by
  rw [hostRead, if_pos hok, hv, State.answered_none]

/-- A read action with an operand out of range draws a free value in FAULT. -/
theorem hostRead_of_bad_operand_of_fault (hok : ok = false) (hs : s.status = .fault) :
    hostRead ok v any s = .next { s with answer := some (any s.draws), draws := s.draws + 1 } := by
  rw [hostRead, if_neg (by simp [hok]), if_pos hs, State.answered_none]

/-- A read action with an operand out of range faults outside FAULT. -/
theorem hostRead_of_bad_operand (hok : ok = false) (hs : s.status ≠ .fault) :
    hostRead ok v any s = .next (s.faulted .badHostOperand) := by
  rw [hostRead, if_neg (by simp [hok]), if_neg hs, raise]

/-- A read action answers a next state. -/
theorem exists_hostRead_eq_next (ok : Bool) (v : Option HostValue) (any : Nat → HostValue) (s : State) :
    ∃ u, hostRead ok v any s = .next u := by
  obtain ⟨-, h⟩ | ⟨-, -, h⟩ | ⟨-, -, h⟩ := hostRead_cases ok v any s <;> exact ⟨_, h⟩

end

/-! ### Every action answers -/

/-- START answers a next state: each of its checks raises a fault, and behind them the run begins. -/
theorem exists_execStart_eq_next (m n : Nat) (s : State) : ∃ t, execStart m n s = .next t := by
  unfold execStart raise
  split_ifs <;> exact ⟨_, rfl⟩

/-- Settles O12: a host action is a write, a read, START or RESET, and each of them answers. -/
theorem hostActionAlwaysAnswers : Obligations.HostActionAlwaysAnswers := by
  intro i s hhost
  cases i with
  | sym | esc | fin => cases hhost
  | wrZt | wrLen | wrSym | loadTable | wrIn | wrOut => exact exists_hostWrite_eq_next _ _ _ _
  | rdIn | rdOut | rdLen | rdSym => exact exists_hostRead_eq_next _ _ _ _
  | rdZt | rdStatus | rdCursors | rdResult => exact exists_hostRead_eq_next true _ _ _
  | start m n => exact exists_execStart_eq_next m n s
  | reset => exact ⟨s.restored, rfl⟩

/-! ### The table actions -/

/-- Settles O21: WR_ZT has no operand to check. -/
theorem wrZtAction : Obligations.WrZtAction := fun _ _ =>
  ⟨hostWrite_of_writable rfl, hostWrite_of_run rfl, hostWrite_of_fault⟩

/-- There is no entry 255 (10 R24). -/
theorem isTableCode_eq_false {c : Byte} (h : c = 255#8) : isTableCode c = false := h ▸ rfl

/-- Settles O22: WR_LEN is a host write of the entry of its code. -/
theorem wrLenAction : Obligations.WrLenAction := by
  intro c v s
  refine ⟨fun hc hs => ?_, fun hc => hostWrite_of_bad_operand (isTableCode_eq_false hc),
    fun hc => hostWrite_of_run ((isTableCode_iff_ne c).2 hc), hostWrite_of_fault⟩
  have hcode := (isTableCode_iff_ne c).2 hc
  exact ⟨s.setLen c v, hostWrite_of_writable hcode hs, rfl, fun d => entryAt_withEntry s.len c d v hcode⟩

/-- Settles O23: WR_SYM is a host write of the entry of its code. -/
theorem wrSymAction : Obligations.WrSymAction := by
  intro c w s
  refine ⟨fun hc hs => ?_, fun hc => hostWrite_of_bad_operand (isTableCode_eq_false hc),
    fun hc => hostWrite_of_run ((isTableCode_iff_ne c).2 hc), hostWrite_of_fault⟩
  have hcode := (isTableCode_iff_ne c).2 hc
  exact ⟨s.setSym c w, hostWrite_of_writable hcode hs, rfl, fun d => entryAt_withEntry s.sym c d w hcode⟩

/-! ### LOAD_TABLE and the single writes in turn -/

/-- A sequence whose first instruction answers a next state goes on from that state. -/
theorem execSeq_cons {i : Instr} {s t : State} (h : exec i s = .next t) (is : List Instr) :
    execSeq (i :: is) s = execSeq is t := by
  rw [execSeq, h]

/-- A sequence whose first part answers a next state goes on from that state. -/
theorem execSeq_append {is js : List Instr} {s t : State} (h : execSeq is s = .next t) :
    execSeq (is ++ js) s = execSeq js t := by
  induction is generalizing s with
  | nil =>
    injection h with h
    exact h ▸ rfl
  | cons i is ih =>
    rw [List.cons_append]
    cases hi : exec i s with
    | next u =>
      rw [execSeq_cons hi] at h ⊢
      exact ih h
    | fault r => simp [execSeq, hi] at h
    | refused r => simp [execSeq, hi] at h

/-- Instructions that each leave the state as it is leave it so in turn. -/
theorem execSeq_of_unchanged {is : List Instr} {s : State} (h : ∀ i ∈ is, exec i s = .next s) : execSeq is s = .next s := by
  induction is with
  | nil => rfl
  | cons i is ih =>
    obtain ⟨hi, his⟩ := List.forall_mem_cons.1 h
    exact (execSeq_cons hi is).trans (ih his)

/-- The table file with the entries of these codes written, one after the other. -/
def withEntries {α : Type} (vs : Vector α Config.nCodes) (cs : List (Fin Config.nCodes))
    (file : Vector (Option α) Config.nCodes) : Vector (Option α) Config.nCodes :=
  cs.foldl (fun f c => withEntry f (BitVec.ofNat 8 c.val) vs[c.val]) file

/-- The entry of a code once the entry of one code is written. -/
theorem getElem_withEntry_ofNat {α : Type} (file : Vector (Option α) Config.nCodes) (c d : Fin Config.nCodes) (v : α) :
    (withEntry file (BitVec.ofNat 8 c.val) v)[d.val] = if d = c then some v else file[d.val] := by
  have hc : c.val < 255 := c.isLt
  have hval : (BitVec.ofNat 8 c.val).toNat = c.val := by simp; omega
  simp only [withEntry, hval, Vector.getElem_setIfInBounds, Fin.ext_iff, eq_comm]

/-- The entries of the listed codes are written, and the others are as before. -/
theorem getElem_withEntries {α : Type} (vs : Vector α Config.nCodes) (cs : List (Fin Config.nCodes))
    (file : Vector (Option α) Config.nCodes) (d : Fin Config.nCodes) :
    (withEntries vs cs file)[d.val] = if d ∈ cs then some vs[d.val] else file[d.val] := by
  induction cs generalizing file with
  | nil => rfl
  | cons c cs ih =>
    have hcons : withEntries vs (c :: cs) file = withEntries vs cs (withEntry file (BitVec.ofNat 8 c.val) vs[c.val]) := rfl
    rw [hcons, ih, getElem_withEntry_ofNat]
    by_cases hd : d = c <;> simp [hd]

/-- Every code's entry written is the whole table file. -/
theorem withEntries_finRange {α : Type} (vs : Vector α Config.nCodes) (file : Vector (Option α) Config.nCodes) :
    withEntries vs (List.finRange Config.nCodes) file = fullFile vs := by
  ext1 i hi
  rw [getElem_withEntries vs _ file ⟨i, hi⟩, if_pos (List.mem_finRange _), getElem_fullFile]

/-- Instructions that each write the entry of one code write in turn the entries of all of them; `put` is the state around the
table file. -/
theorem execSeq_map_of_entry {α : Type} {vs : Vector α Config.nCodes} {write : Fin Config.nCodes → Instr}
    {put : Vector (Option α) Config.nCodes → State}
    (hwrite : ∀ c file, exec (write c) (put file) = .next (put (withEntry file (BitVec.ofNat 8 c.val) vs[c.val])))
    (cs : List (Fin Config.nCodes)) (file : Vector (Option α) Config.nCodes) :
    execSeq (cs.map write) (put file) = .next (put (withEntries vs cs file)) := by
  induction cs generalizing file with
  | nil => rfl
  | cons c cs ih => exact (execSeq_cons (hwrite c file) _).trans (ih _)

/-- The single writes that LOAD_TABLE stands for: 255 WR_LEN. -/
def lenWrites (lens : Vector Byte Config.nCodes) : List Instr :=
  (List.finRange Config.nCodes).map fun c => .wrLen (BitVec.ofNat 8 c.val) lens[c.val]

/-- The single writes that LOAD_TABLE stands for: 255 WR_SYM. -/
def symWrites (syms : Vector SymWord Config.nCodes) : List Instr :=
  (List.finRange Config.nCodes).map fun c => .wrSym (BitVec.ofNat 8 c.val) syms[c.val]

/-- The 255 WR_LEN write every length. -/
theorem execSeq_lenWrites {s : State} (hs : s.Writable) (lens : Vector Byte Config.nCodes) :
    execSeq (lenWrites lens) s = .next { s with len := fullFile lens } := by
  have hwrite (c : Fin Config.nCodes) (file : Vector (Option Byte) Config.nCodes) :
      exec (.wrLen (BitVec.ofNat 8 c.val) lens[c.val]) { s with len := file } =
        .next { s with len := withEntry file (BitVec.ofNat 8 c.val) lens[c.val] } :=
    hostWrite_of_writable (s := { s with len := file }) ((isTableCode_iff_ne _).2 (code_ne_escape c)) hs
  rw [← withEntries_finRange lens s.len]
  exact execSeq_map_of_entry (put := fun file => { s with len := file }) hwrite _ s.len

/-- The 255 WR_SYM write every word. -/
theorem execSeq_symWrites {s : State} (hs : s.Writable) (syms : Vector SymWord Config.nCodes) :
    execSeq (symWrites syms) s = .next { s with sym := fullFile syms } := by
  have hwrite (c : Fin Config.nCodes) (file : Vector (Option SymWord) Config.nCodes) :
      exec (.wrSym (BitVec.ofNat 8 c.val) syms[c.val]) { s with sym := file } =
        .next { s with sym := withEntry file (BitVec.ofNat 8 c.val) syms[c.val] } :=
    hostWrite_of_writable (s := { s with sym := file }) ((isTableCode_iff_ne _).2 (code_ne_escape c)) hs
  rw [← withEntries_finRange syms s.sym]
  exact execSeq_map_of_entry (put := fun file => { s with sym := file }) hwrite _ s.sym

/-- In FAULT the 510 entry writes have no effect. -/
theorem execSeq_entryWrites_of_fault {s : State} (hs : s.status = .fault) (lens : Vector Byte Config.nCodes)
    (syms : Vector SymWord Config.nCodes) : execSeq (lenWrites lens ++ symWrites syms) s = .next s := by
  refine execSeq_of_unchanged fun i hi => ?_
  obtain hi | hi := List.mem_append.1 hi <;> obtain ⟨c, -, rfl⟩ := List.mem_map.1 hi <;> exact hostWrite_of_fault hs

/-- The 511 single writes end where LOAD_TABLE ends. In RUN the first of them raises LOAD_TABLE's fault, and the others have no
effect. -/
theorem execSeq_tableWrites (z : Bool) (lens : Vector Byte Config.nCodes) (syms : Vector SymWord Config.nCodes) (s : State) :
    execSeq (.wrZt z :: (lenWrites lens ++ symWrites syms)) s = exec (.loadTable z lens syms) s := by
  obtain hs | hs | hs := writable_or_run_or_fault s
  · have hzt : exec (.wrZt z) s = .next (s.setZt z) := hostWrite_of_writable rfl hs
    have hlens := execSeq_lenWrites (s := s.setZt z) hs lens
    have hsyms := execSeq_symWrites (s := { s.setZt z with len := fullFile lens }) hs syms
    rw [execSeq_cons hzt, execSeq_append hlens, hsyms]
    exact (hostWrite_of_writable rfl hs).symm
  · have hzt : exec (.wrZt z) s = .next (s.faulted .tableBusy) := hostWrite_of_run rfl hs
    rw [execSeq_cons hzt, execSeq_entryWrites_of_fault rfl]
    exact (hostWrite_of_run rfl hs).symm
  · have hzt : exec (.wrZt z) s = .next s := hostWrite_of_fault hs
    rw [execSeq_cons hzt, execSeq_entryWrites_of_fault hs]
    exact (hostWrite_of_fault hs).symm

/-- Settles O24: LOAD_TABLE is a host write of the whole table, and the single writes in turn end where it does. -/
theorem loadTableAction : Obligations.LoadTableAction := by
  intro z lens syms s
  refine ⟨fun hs => ?_, hostWrite_of_run rfl, hostWrite_of_fault, execSeq_tableWrites z lens syms s⟩
  exact ⟨s.setTable z lens syms, hostWrite_of_writable rfl hs, rfl,
    fun c => ⟨getElem_fullFile lens c.val c.isLt, getElem_fullFile syms c.val c.isLt⟩⟩

/-! ### The buffer actions -/

/-- START outside FAULT and RUN: the three checks that are left, in their order (41 R135). -/
theorem exec_start_of_writable {s : State} (hs : s.Writable) (m n : Nat) : exec (.start m n) s =
    if s.zt = none then raise .notConfigured s
    else if s.params.inCap < m ∨ s.params.outCap < n then raise .range s
    else if s.params.maxLen < 8 * m then raise .lengthOverflow s
    else .next (s.begun m n) := by
  change execStart m n s = _
  rw [execStart, if_neg hs.not_fault, if_neg hs.not_run]

/-- Settles O26: each clause is one branch of START. -/
theorem startAction : Obligations.StartAction := by
  intro m n s
  refine ⟨exec_start, fun hs => if_pos hs, fun hs => ?_, fun hs hz => ?_, fun hs hz hcap => ?_,
    fun hs hz hm hn hl => ?_⟩
  · change execStart m n s = _
    rw [execStart, if_neg (by simp [hs]), if_pos hs]
    rfl
  · rw [exec_start_of_writable hs, if_pos hz]
    rfl
  · rw [exec_start_of_writable hs, if_neg hz, if_pos hcap]
    rfl
  · rw [exec_start_of_writable hs, if_neg hz, if_neg (by omega), if_pos (show s.params.maxLen < 8 * m from hl)]
    rfl

/-- Settles O27: WR_IN is a host write of one byte of IMEM. -/
theorem wrInAction : Obligations.WrInAction := by
  intro a b s
  refine ⟨fun ha hs => ?_, fun ha => hostWrite_of_bad_operand (decide_eq_false (by omega)),
    fun ha => hostWrite_of_run (decide_eq_true ha), hostWrite_of_fault⟩
  exact ⟨s.setIn a b, hostWrite_of_writable (decide_eq_true ha) hs, rfl, Memory.read_write s.imem a b⟩

/-- Settles O28: WR_OUT is a host write of one byte of OMEM. -/
theorem wrOutAction : Obligations.WrOutAction := by
  intro a b s
  refine ⟨fun ha hs => ?_, fun ha => hostWrite_of_bad_operand (decide_eq_false (by omega)),
    fun ha => hostWrite_of_run (decide_eq_true ha), hostWrite_of_fault⟩
  exact ⟨s.setOut a b, hostWrite_of_writable (decide_eq_true ha) hs, rfl, Memory.read_write s.omem a b⟩

/-! ### The read actions -/

/-- Settles O29: RD_IN is a host read of one byte of IMEM. -/
theorem rdInAction : Obligations.RdInAction := by
  intro a s
  exact ⟨fun b ha hb => hostRead_of_some (decide_eq_true ha) (by rw [hb]; rfl),
    fun ha hb => ⟨_, _, hostRead_of_none (decide_eq_true ha) (by rw [hb]; rfl)⟩,
    fun ha hs => ⟨_, _, hostRead_of_bad_operand_of_fault (decide_eq_false (by omega)) hs⟩,
    fun ha => hostRead_of_bad_operand (decide_eq_false (by omega))⟩

/-- Settles O30: RD_OUT is a host read of one byte of OMEM, with no value in RUN. -/
theorem rdOutAction : Obligations.RdOutAction := by
  intro a s
  refine ⟨fun b ha hs hb => hostRead_of_some (decide_eq_true ha) (by rw [if_neg hs, hb]; rfl),
    fun ha hnone => ⟨_, _, hostRead_of_none (decide_eq_true ha) ?_⟩,
    fun ha hs => ⟨_, _, hostRead_of_bad_operand_of_fault (decide_eq_false (by omega)) hs⟩,
    fun ha => hostRead_of_bad_operand (decide_eq_false (by omega))⟩
  obtain hs | hb := hnone
  · exact if_pos hs
  · rw [hb, Option.map_none, ite_self]

/-- Settles O31: RD_ZT is a host read of the flag. -/
theorem rdZtAction : Obligations.RdZtAction := fun s =>
  ⟨fun _ hv => hostRead_of_some rfl (by rw [hv]; rfl), fun hz => ⟨_, _, hostRead_of_none rfl (by rw [hz]; rfl)⟩⟩

/-- Settles O32: RD_LEN is a host read of one length. -/
theorem rdLenAction : Obligations.RdLenAction := by
  intro c s
  exact ⟨fun v hc hv => hostRead_of_some ((isTableCode_iff_ne c).2 hc) (by rw [hv]; rfl),
    fun hc hv => ⟨_, _, hostRead_of_none ((isTableCode_iff_ne c).2 hc) (by rw [hv]; rfl)⟩,
    fun hc hs => ⟨_, _, hostRead_of_bad_operand_of_fault (isTableCode_eq_false hc) hs⟩,
    fun hc => hostRead_of_bad_operand (isTableCode_eq_false hc)⟩

/-- Settles O33: RD_SYM is a host read of one symbol word. -/
theorem rdSymAction : Obligations.RdSymAction := by
  intro c s
  exact ⟨fun w hc hw => hostRead_of_some ((isTableCode_iff_ne c).2 hc) (by rw [hw]; rfl),
    fun hc hw => ⟨_, _, hostRead_of_none ((isTableCode_iff_ne c).2 hc) (by rw [hw]; rfl)⟩,
    fun hc hs => ⟨_, _, hostRead_of_bad_operand_of_fault (isTableCode_eq_false hc) hs⟩,
    fun hc => hostRead_of_bad_operand (isTableCode_eq_false hc)⟩

/-- RD_STATUS returns STATE's code, whatever the state. -/
theorem exec_rdStatus {s : State} {st : Status} (hs : s.status = st) :
    exec .rdStatus s = .next { s with answer := some (.status st.code s.cause) } :=
  hostRead_of_some rfl (by rw [hs])

/-- Settles O34: the code of each status. -/
theorem rdStatusAction : Obligations.RdStatusAction := fun _ =>
  ⟨exec_rdStatus, exec_rdStatus, exec_rdStatus, exec_rdStatus⟩

/-- Settles O35: RD_CURSORS is a host read with no operand, which always has its value. -/
theorem rdCursorsAction : Obligations.RdCursorsAction := fun _ => hostRead_of_some rfl rfl

/-- Settles O36: RD_RESULT is a host read that has its value in DONE; a free value has W_LEN bits. -/
theorem rdResultAction : Obligations.RdResultAction := fun _ =>
  ⟨fun hs => hostRead_of_some rfl (if_pos hs),
    fun hs => ⟨_, _, BitVec.isLt _, hostRead_of_none rfl (if_neg hs)⟩⟩

/-! ### The recovery from a truncated run -/

/-- Expansions depend on the table alone. -/
theorem expand_congr {s t : State} (hlen : t.len = s.len) (hsym : t.sym = s.sym) (us : List Instr) :
    t.expand us = s.expand us := by
  have hexp (u : Instr) : t.expansion u = s.expansion u := by cases u <;> simp [State.expansion, hlen, hsym]
  induction us with
  | nil => rfl
  | cons u us ih => rw [State.expand, State.expand, hexp, ih]

/-- What a stream decompresses to depends on its bytes and the table alone. -/
theorem State.Decompresses.congr {s t : State} {out : List Byte} (h : s.Decompresses out) (hlen : t.len = s.len)
    (hsym : t.sym = s.sym) (hin : t.inLen = s.inLen) (himem : t.imem = s.imem) : t.Decompresses out := by
  obtain ⟨bs, us, ⟨hbytes, hread⟩, hparse, hexp⟩ := h
  refine ⟨bs, us, ⟨hbytes.trans hin.symm, ?_⟩, hparse, (expand_congr hlen hsym us).trans hexp⟩
  rw [hin, himem]
  exact hread

/-- Settles O55: START is legal again, and the run that follows is well-formed with a buffer of the string's length, of which FIN
can force the last byte alone. -/
theorem truncationRecovery : Obligations.TruncationRecovery := by
  intro s out h hb hdone hout hresult _ hcap hturns
  have hz : s.zt ≠ none := h.zt_written (.inr hdone)
  have hcovered : outsideSpec s = none := (outsideSpec_none s).2 ⟨h.params_legal, hb, h.cause_legal⟩
  have hstart : step s = .next ((s.withTurns []).begun s.inLen s.result) := by
    rw [step_of_host hcovered hturns, hostStep_of_host rfl]
    exact exec_start (s := s.withTurns []) (.inr hdone) hz h.inLen_le hcap h.length_fits
  have hinv := everyStepKeepsTheInvariant _ _ h hstart
  have hdecompresses := hout.congr (t := (s.withTurns []).begun s.inLen s.result) rfl rfl rfl rfl
  obtain ⟨k, t, -, hrun, hsuccess, hfinal, hbytes, -, -⟩ := runDecompresses _ out hinv hb rfl rfl rfl rfl hdecompresses
  refine ⟨k + 1, t, (runFor_succ hstart).trans hrun, hsuccess, by rw [hfinal], ?_, fun i hi hlast => ?_⟩
  · rw [hfinal]
    simp [State.truncated, hresult]
  · refine hbytes i hi (by simpa [hresult] using hi) ?_
    rintro ⟨hzt, -, -, rfl⟩
    rw [State.begun_outSize, hresult] at hlast
    exact hlast hzt (by omega)

end Sys2Proof.Machine
end

section
/-! Proofs for spec/60_exceptions.md: what raises each fault (R160), fault entry (R161), stickiness (R162) and the order of FIN and a
table write (R165). -/

namespace Sys2Proof.Machine

/-! ### Fault entry -/

/-- An instruction enters FAULT only by raising one of its own causes (60 R160, R161). -/
theorem Effect.eq_faulted {i : Instr} {s t : State} (e : Effect s i t) (hs : s.status ≠ .fault) (ht : t.status = .fault) :
    ∃ c ∈ causesOf i, t = s.faulted c := by
  cases e with
  | faulted _ c _ hc => exact ⟨c, hc, rfl⟩
  | ignored | returned | sym | esc | wrZt | wrLen | wrSym | loadTable | wrIn | wrOut => exact absurd (by simpa using ht) hs
  | finForced | fin | start | reset => simp at ht

/-- Settles O41: the fault's state holds the code of the cause that was raised. -/
theorem causesByRaiser : Obligations.CausesByRaiser := by
  intro i s t h hs ht
  obtain ⟨c, hc, rfl⟩ := (exec_effect h).eq_faulted hs ht
  exact ⟨c, hc, rfl⟩

/-- An instruction enters FAULT with a named cause other than NONE. -/
theorem eq_faulted_of_exec {i : Instr} {s t : State} (h : exec i s = .next t) (hs : s.status ≠ .fault)
    (ht : t.status = .fault) : ∃ c, c ≠ .none ∧ t = s.faulted c := by
  obtain ⟨c, hc, rfl⟩ := (exec_effect h).eq_faulted hs ht
  exact ⟨c, ne_none_of_mem_causesOf hc, rfl⟩

/-- The engine enters FAULT by its unit's fault or by the fetch's. -/
theorem eq_faulted_of_engineStep {s t : State} (h : engineStep s = .next t) (ht : t.status = .fault) :
    ∃ c, c ≠ .none ∧ t = s.faulted c := by
  obtain ⟨⟨hrun, -⟩, ⟨-, hx⟩ | ⟨-, ⟨c, hx⟩ | ⟨l, hx⟩ | hraised⟩⟩ := engineStep_next h
  · exact eq_faulted_of_exec hx (by simp [hrun]) ht
  · exact eq_faulted_of_exec hx (by simp [hrun]) ht
  · exact eq_faulted_of_exec hx (by simp [hrun]) ht
  · exact hraised

/-- A host turn that answers a next state executed a host action. -/
theorem hostStep_next {i : Instr} {s t : State} (h : hostStep i s = .next t) : i.agent = .host ∧ exec i s = .next t := by
  unfold hostStep at h
  split at h
  · exact ⟨‹_›, h⟩
  · cases h

/-- A step that answers a next state is the engine's or a host action, from the state with the first turn used up. -/
theorem step_next_tail {s t : State} (h : step s = .next t) : engineStep (s.withTurns s.turns.tail) = .next t ∨
    ∃ i, i.agent = .host ∧ exec i (s.withTurns s.turns.tail) = .next t := by
  have hcovered := (step_next h).1
  match hturns : s.turns with
  | [] =>
    have hsame : s.withTurns [] = s := by rw [← hturns]; rfl
    exact .inl (by rw [List.tail_nil, hsame, ← step_of_silent hcovered hturns, h])
  | .engine :: rest => exact .inl ((step_of_engine hcovered hturns).symm.trans h)
  | .host i :: rest => exact .inr ⟨i, hostStep_next ((step_of_host hcovered hturns).symm.trans h)⟩

/-- Settles O40: an instruction, and a step after its turn is used up, enters FAULT by `State.faulted` alone. -/
theorem faultEntryIsPrecise : Obligations.FaultEntryIsPrecise := by
  refine ⟨fun i s t => eq_faulted_of_exec, fun s t h hs ht => ?_, fun s hs => engineStep_of_not_run (by simp [hs])⟩
  obtain h | ⟨i, -, h⟩ := step_next_tail h
  · exact eq_faulted_of_engineStep h ht
  · exact eq_faulted_of_exec h hs ht

/-! ### In FAULT -/

/-- In FAULT an instruction resets, has no effect, or returns a read (60 R162). -/
theorem Effect.of_fault {i : Instr} {s t : State} (e : Effect s i t) (hs : s.status = .fault) :
    i = .reset ∨ t = s ∨ isRead i = true ∧ ∃ v any, t = s.answered v any := by
  cases e with
  | reset => exact .inl rfl
  | ignored => exact .inr (.inl rfl)
  | returned _ v any hr => exact .inr (.inr ⟨hr, v, any, rfl⟩)
  | faulted _ _ hne => exact absurd hs hne
  | sym _ _ _ h | esc _ h | finForced h | fin h => simp [hs] at h
  | wrZt _ h | wrLen _ _ h | wrSym _ _ h | loadTable _ _ _ h | start _ _ h | wrIn _ _ h | wrOut _ _ h =>
    exact absurd hs h.1

/-- Settles O42: a read's return keeps STATE and CAUSE, and every other host action but RESET answers, without effect. -/
theorem faultsAreSticky : Obligations.FaultsAreSticky := by
  intro s hs
  refine ⟨fun i t h hne => ?_, fun i hhost hwrite hne => ?_, engineStep_of_not_run (by simp [hs]), ?_⟩
  · obtain hreset | rfl | ⟨-, v, any, rfl⟩ := (exec_effect h).of_fault hs
    · exact absurd hreset hne
    · exact ⟨hs, rfl⟩
    · simp [hs]
  · obtain ⟨t, h⟩ := hostActionAlwaysAnswers i s hhost
    obtain hreset | rfl | ⟨hread, -⟩ := (exec_effect h).of_fault hs
    · exact absurd hreset hne
    · exact h
    · simp [hwrite] at hread
  · rintro ⟨hdone, -⟩
    simp [hs] at hdone

/-! ### FIN and a table write, in either order -/

/-- A table write is the host's. -/
theorem agent_of_isTableWrite {i : Instr} (h : isTableWrite i = true) : i.agent = .host := by
  cases i with
  | wrZt | wrLen | wrSym | loadTable => rfl
  | _ => cases h

/-- A table write is a host write with a legal operand, of a state with the same STATE, CAUSE and RESULT (41 section 2). -/
theorem exists_exec_eq_hostWrite {i : Instr} (h : isTableWrite i = true) (s : State) :
    ∃ t, exec i s = hostWrite true .tableBusy s t ∧ t.status = s.status ∧ t.cause = s.cause ∧ t.result = s.result := by
  cases i with
  | wrZt v => exact ⟨s.setZt v, rfl, rfl, rfl, rfl⟩
  | wrLen c v => exact ⟨s.setLen c v, congrArg (hostWrite · _ _ _) h, rfl, rfl, rfl⟩
  | wrSym c w => exact ⟨s.setSym c w, congrArg (hostWrite · _ _ _) h, rfl, rfl, rfl⟩
  | loadTable z ls ws => exact ⟨s.setTable z ls ws, rfl, rfl, rfl, rfl⟩
  | _ => cases h

/-- A table write in IDLE or DONE keeps STATE, CAUSE and RESULT. -/
theorem exec_tableWrite_of_writable {i : Instr} (h : isTableWrite i = true) {s : State} (hs : s.Writable) :
    ∃ t, exec i s = .next t ∧ t.status = s.status ∧ t.cause = s.cause ∧ t.result = s.result := by
  obtain ⟨t, hexec, hkept⟩ := exists_exec_eq_hostWrite h s
  exact ⟨t, hexec.trans (hostWrite_of_writable rfl hs), hkept⟩

/-- A table write in RUN faults TABLE_BUSY. -/
theorem exec_tableWrite_of_run {i : Instr} (h : isTableWrite i = true) {s : State} (hs : s.status = .run) :
    exec i s = .next (s.faulted .tableBusy) := by
  obtain ⟨t, hexec, -⟩ := exists_exec_eq_hostWrite h s
  exact hexec.trans (hostWrite_of_run rfl hs)

@[simp] theorem State.closed_cause (s : State) : s.closed.cause = s.cause := by simp [State.closed]
@[simp] theorem State.closed_result (s : State) : s.closed.result = s.posOut := by simp [State.closed]
@[simp] theorem State.closed_params (s : State) : s.closed.params = s.params := by simp [State.closed]
@[simp] theorem State.closed_turns (s : State) : s.closed.turns = s.turns := by simp [State.closed]

/-- FIN keeps the state inside the spec. -/
theorem outsideSpec_closed {s : State} (h : outsideSpec s = none) : outsideSpec s.closed = none := by
  rw [outsideSpec_none, State.closed_params, State.closed_cause]
  exact (outsideSpec_none s).1 h

/-- The engine's turn at the end of a run's stream is FIN (40 R101). -/
theorem step_of_endReady {s : State} {rest : List Turn} (hcovered : outsideSpec s = none) (hr : s.EndReady)
    (hturns : s.turns = .engine :: rest) : step s = .next (s.withTurns rest).closed := by
  have hr' : (s.withTurns rest).EndReady := ⟨hr.running, hr.ended, hr.fits⟩
  rw [step_of_engine hcovered hturns, engineStep, fetch_end hr'.ended]
  exact exec_fin hr'

/-- Settles O13: FIN ends the run in DONE, where the write that follows has its effect; a write that comes first meets RUN. -/
theorem eitherOrderIsAdmitted : Obligations.EitherOrderIsAdmitted := by
  intro s i hcovered hr hwrite
  have hhost := agent_of_isTableWrite hwrite
  refine ⟨?_, ?_⟩
  · have hfin : step (s.withTurns [.engine, .host i]) = .next (s.withTurns [.host i]).closed :=
      step_of_endReady (s := s.withTurns [.engine, .host i]) hcovered ⟨hr.running, hr.ended, hr.fits⟩ rfl
    obtain ⟨t, hexec, hstatus, hcause, hresult⟩ :=
      exec_tableWrite_of_writable hwrite (s := (s.withTurns [.host i]).closed.withTurns []) (.inr (by simp))
    have hhostTurn := stepRunsTheHostAction (s.withTurns [.host i]).closed i []
      (outsideSpec_closed (s := s.withTurns [.host i]) hcovered) (by simp) hhost
    exact ⟨_, t, runFor_succ hfin, by simp, by simp, (runFor_succ hfin).trans (runFor_succ (hhostTurn.trans hexec)), hexec,
      by simpa using hstatus, by simpa using hcause, by simpa using hresult⟩
  · have hbusy : step (s.withTurns [.host i, .engine]) = .next ((s.withTurns [.engine]).faulted .tableBusy) :=
      (stepRunsTheHostAction (s.withTurns [.host i, .engine]) i [.engine] hcovered rfl hhost).trans
        (exec_tableWrite_of_run hwrite hr.running)
    exact runFor_succ hbusy

end Sys2Proof.Machine
end

section
/-! Proofs for spec/70_reset_and_hazards.md: the reset values (R190), and what a run may rely on (R194, R195). -/

namespace Sys2Proof.Machine

/-! ### Reset -/

/-- Power-on puts every element at its reset value (10 R39). -/
theorem State.powerOn_atResetValues (p : Params) : (State.powerOn p).AtResetValues where
  zt_unwritten := rfl
  len_unwritten c := Vector.getElem_replicate c.isLt
  sym_unwritten c := Vector.getElem_replicate c.isLt
  inLen_zero := rfl
  outSize_zero := rfl
  posIn_zero := rfl
  posOut_zero := rfl
  result_zero := rfl
  idle := rfl
  no_cause := rfl
  imem_unwritten _ := rfl
  omem_unwritten _ := rfl

/-- What RESET keeps is no element, so it leaves the elements as power-on does (70 R190). -/
theorem State.restored_atResetValues (s : State) : s.restored.AtResetValues :=
  { State.powerOn_atResetValues s.params with }

/-- Settles O38: RESET answers the restored state, and both it and power-on have the reset values. -/
theorem resetAction : Obligations.ResetAction :=
  ⟨fun s => ⟨s.restored, rfl, s.restored_atResetValues⟩, State.powerOn_atResetValues,
    State.powerOn_atResetValues Params.initial⟩

/-! ### During a run -/

/-- Settles O45: a host write has no effect in RUN but its fault, a read's return and a fault keep every element named, and the
engine writes no more than OMEM and its cursors. -/
theorem stableDuringRun : Obligations.StableDuringRun := by
  intro i s t hrun h hne
  cases exec_effect h with
  | faulted | ignored | returned => simp
  | sym | esc | finForced | fin => simp [Instr.agent]
  | wrZt _ hi | wrLen _ _ hi | wrSym _ _ hi | loadTable _ _ _ hi | start _ _ hi | wrIn _ _ hi | wrOut _ _ hi =>
    exact absurd hrun hi.2
  | reset => exact absurd rfl hne

end Sys2Proof.Machine
end
